-- ==== Sys2Proof/Word.lean ====
section
/-! DEFINITION. The word types of the RSB sequencer (00_scope.md R8): bit 0 is the least significant bit. -/

namespace Sys2Proof

/-- A 32-bit controller register value, or a 32-bit operand (00_scope.md R6, `W` and `FREQ_W`). -/
abbrev Word := BitVec 32

/-- A byte: a device register, a device register address, a runtime address (00_scope.md R8, `u8`). -/
abbrev Byte := BitVec 8

/-- A 12-bit hardware address (00_scope.md R8, `u12`). -/
abbrev HwAddr := BitVec 12

/-- A 24-bit mode-switch payload (00_scope.md R8, `u24`). -/
abbrev Payload := BitVec 24

/-- The low 8 bits `w[7:0]`. -/
def Word.low8 (w : Word) : Byte := w.truncate 8

/-- The low 24 bits `w[23:0]`. -/
def Word.low24 (w : Word) : Payload := w.truncate 24

/-- The low 12 bits `w[11:0]`. -/
def Word.low12 (w : Word) : HwAddr := w.truncate 12

/-- `zext_32` of a byte. -/
def Byte.zext (b : Byte) : Word := b.zeroExtend 32

/-- Exactly one bit of the word is 1. -/
def Word.oneBit (w : Word) : Bool := w != 0 && (w &&& (w - 1)) == 0

end Sys2Proof
end

