-- ==== Sys2Proof/Config.lean ====
section
/-! DEFINITION. What an implementation fixes (00_scope.md R6 and R7, the parameters) and the free values: opaque constants
without a body, for what the spec calls a draw, an OPEN parameter or a nondeterministic choice. -/

namespace Sys2Proof

/-- The agents that take steps of their own (00_scope.md R3); the device P takes none. -/
inductive Agent where
  | sequencer
  | controller
  | host
deriving DecidableEq, Repr, Inhabited

/-- The parameters of 00_scope.md R6: the record `RsbConfig` of R7 with the other parameters beside it.
A state carries one such record, so a statement over all states is a statement over all parameters. -/
structure RsbConfig where
  /-- Base address of the register block. No rule depends on it (20_memory.md R67), and none gives its width: DESIGN CHOICE,
  a 32-bit word, safe (log 34). -/
  rsbBase : Word
  offCtrl : Word
  offCcr : Word
  offInte : Word
  offStat : Word
  offDaddr : Word
  offDlen : Word
  offData : Word
  offLcr : Word
  offPmcr : Word
  offCmd : Word
  offSaddr : Word
  ctrlSoftRst : Word
  ctrlStartTrans : Word
  ccrDelayBit : Word
  pmcrStart : Word
  saddrRtaShift : Nat
  cmdSrta : Byte
  cmdRd8 : Byte
  cmdRd16 : Byte
  cmdRd32 : Byte
  cmdWr8 : Byte
  cmdWr16 : Byte
  cmdWr32 : Byte
  statSuccess : Word
  /-- `POLL_MAX_TRIES`, the budget `T` of every poll (41_poll.md R143). -/
  pollMaxTries : Nat
  hsSrcFreq : Word
  hsBusFreq : Word
  opBusFreq : Word
  modeSwitchPayload : Payload
  pmicHwAddr : HwAddr
  pmicRtAddr : Byte
  devRegCount : Nat
  scratchSlots : Nat
  scratchBase : Byte
  /-- `DEV_VOLATILE`, less the members every model must add (10_state.md R36, R37). -/
  devVolatile : List Byte
  devReadClear : Byte
  errnoTimeout : Word
  errnoInvalid : Word
deriving DecidableEq, Repr

/-- FREE VALUE: the n-th draw of a run whose script of draws is exhausted (10_state.md R38, "a draw"; log 4). -/
opaque Config.draw : Nat → Word

/-- FREE VALUE: the n-th turn of a run whose plan of turns is exhausted (40_controller.md R125; log 5). -/
opaque Config.turn : Nat → Agent

/-- FREE VALUE: the power-on contents that 10_state.md R38 leaves unspecified, numbered by INVENTORY.md (log 3). -/
opaque Config.powerOn : Nat → Word

/-- FREE VALUE: `SCRATCH_BASE`, OPEN in 00_scope.md R6 (log 2). -/
opaque Config.scratchBase : Byte

/-- FREE VALUE: `DEV_VOLATILE`, OPEN in 00_scope.md R6 (log 2). -/
opaque Config.devVolatile : List Byte

/-- FREE VALUE: `DEV_READ_CLEAR`, OPEN in 00_scope.md R6 (log 2). -/
opaque Config.devReadClear : Byte

/-- FREE VALUE: `ERRNO_TIMEOUT`, OPEN in 00_scope.md R6 (log 2). -/
opaque Config.errnoTimeout : Word

/-- FREE VALUE: `ERRNO_INVALID`, OPEN in 00_scope.md R6 (log 2). -/
opaque Config.errnoInvalid : Word

/-- What a device byte reads as that no cell lists: the launch content is a launch parameter (10_state.md R36),
and the state after reset takes 0x00. DESIGN CHOICE, unsafe (log 6). -/
def Config.unlistedByte : Byte := 0x00#8

/-- The default configuration of 00_scope.md R6. PRESUMED values (general knowledge, as the spec says): log 24.
`rsbBase` is OPEN with this default. -/
def RsbConfig.default : RsbConfig where
  rsbBase := 0x01F03400#32
  offCtrl := 0x00#32
  offCcr := 0x04#32
  offInte := 0x08#32
  offStat := 0x0C#32
  offDaddr := 0x10#32
  offDlen := 0x18#32
  offData := 0x1C#32
  offLcr := 0x24#32
  offPmcr := 0x28#32
  offCmd := 0x2C#32
  offSaddr := 0x30#32
  ctrlSoftRst := 0x00000001#32
  ctrlStartTrans := 0x00000080#32
  ccrDelayBit := 0x00000100#32
  pmcrStart := 0x80000000#32
  saddrRtaShift := 16
  cmdSrta := 0xE8#8
  cmdRd8 := 0x8B#8
  cmdRd16 := 0x9C#8
  cmdRd32 := 0xA6#8
  cmdWr8 := 0x4E#8
  cmdWr16 := 0x59#8
  cmdWr32 := 0x63#8
  statSuccess := 0x00000001#32
  pollMaxTries := 100000
  hsSrcFreq := 24000000#32
  hsBusFreq := 400000#32
  opBusFreq := 3000000#32
  modeSwitchPayload := 0x7C3E00#24
  pmicHwAddr := 0x3A3#12
  pmicRtAddr := 0x2D#8
  devRegCount := 128
  scratchSlots := 12
  scratchBase := Config.scratchBase
  devVolatile := Config.devVolatile
  devReadClear := Config.devReadClear
  errnoTimeout := Config.errnoTimeout
  errnoInvalid := Config.errnoInvalid

end Sys2Proof
end

