-- ==== Sys2Proof/Syntax.lean ====
section
/-! DEFINITION. Instructions on the three levels of 00_scope.md R2 (one constructor per row of the opcode table), and the
sequencer's requests, parts and micro-ops. -/

namespace Sys2Proof

/-- The opcode table. A request is an operation the host asks for (30_encoding.md R91); a bus command is what the
controller performs when a transaction with that CMD value completes (R80); a trigger is a word written to CTRL or PMCR
that starts a controller operation (R89), and it carries the word. -/
inductive Instr where
  | rsbReset
  | rsbSpeed (src bus : Word)
  | rsbModesw (payload : Payload)
  | rsbSrta (hw : HwAddr) (rt : Byte)
  | rsbRd8 (rt reg : Byte)
  | rsbWr8 (rt reg val : Byte)
  | rsbRmw (rt reg clr set : Byte)
  | rsbInit
  | cmdSrta
  | cmdRd8
  | cmdRd16
  | cmdRd32
  | cmdWr8
  | cmdWr16
  | cmdWr32
  | ctrlSoftRst (v : Word)
  | ctrlStartTrans (v : Word)
  | pmcrStart (v : Word)
deriving DecidableEq, Repr

/-- The eleven controller registers (10_state.md R26), in the source's order. -/
inductive Reg where
  | ctrl | ccr | inte | stat | daddr | dlen | data | lcr | pmcr | cmd | saddr
deriving DecidableEq, Repr

/-- Every controller register, in the source's order. -/
def Reg.all : List Reg := [.ctrl, .ccr, .inte, .stat, .daddr, .dlen, .data, .lcr, .pmcr, .cmd, .saddr]

/-- A request at the request port (30_encoding.md R90): five fields carried side by side. -/
structure Request where
  op : BitVec 4
  a0 : Word
  a1 : Word
  a2 : Byte
  a3 : Byte
deriving DecidableEq, Repr

/-- The sequencer operation being run, `S.op` (10_state.md R21). -/
inductive ReqOp where
  | reset | setSpeed | modeSwitch | assignRta | read8 | write8 | rmw | init
deriving DecidableEq, Repr

/-- The operation an op code names (30_encoding.md R91). -/
def ReqOp.ofBits (b : BitVec 3) : ReqOp :=
  match b.toNat with
  | 0 => .reset
  | 1 => .setSpeed
  | 2 => .modeSwitch
  | 3 => .assignRta
  | 4 => .read8
  | 5 => .write8
  | 6 => .rmw
  | _ => .init

/-- A part: a simple operation with its operands, the argument of `start_part` and `prog` (41_poll.md R145). -/
inductive Part where
  | reset
  | setSpeed (src bus : Word)
  | modeSwitch (payload : Payload)
  | assignRta (hw : HwAddr) (rt : Byte)
  | read8 (rt reg : Byte)
  | write8 (rt reg val : Byte)
deriving DecidableEq, Repr

/-- The micro-ops of 41_poll.md R145. Offsets are byte offsets in the register block. -/
inductive MicroOp where
  | wr (off v : Word)
  | poll (off mask : Word)
  | status
  | rddata
deriving DecidableEq, Repr

/-- `S.resp_kind` (10_state.md R24). -/
inductive RespKind where
  | ok | timeout | hwStatus | invalidArgument
deriving DecidableEq, Repr

end Sys2Proof
end

