-- ==== Sys2Proof/WellFormed.lean ====
section
/-! DEFINITION. The well-formedness checks: on a configuration (00_scope.md R7, 20_memory.md R64, 41_poll.md R143,
30_encoding.md R80) and on an instruction under a configuration. -/

namespace Sys2Proof

/-- The eleven offsets, in the order of `Reg.all`. -/
def RsbConfig.offsets (c : RsbConfig) : List Word :=
  [c.offCtrl, c.offCcr, c.offInte, c.offStat, c.offDaddr, c.offDlen, c.offData, c.offLcr, c.offPmcr, c.offCmd, c.offSaddr]

/-- The seven command opcodes. -/
def RsbConfig.opcodes (c : RsbConfig) : List Byte :=
  [c.cmdSrta, c.cmdRd8, c.cmdRd16, c.cmdRd32, c.cmdWr8, c.cmdWr16, c.cmdWr32]

/-- The offsets are distinct and multiples of 4 (00_scope.md R7). -/
def RsbConfig.offsetsOk (c : RsbConfig) : Bool :=
  decide c.offsets.Nodup && c.offsets.all (fun o => o.toNat % 4 == 0)

/-- The base is a multiple of 4 (20_memory.md R64). -/
def RsbConfig.baseOk (c : RsbConfig) : Bool := c.rsbBase.toNat % 4 == 0

/-- The masks have exactly one bit each, and the two CTRL triggers differ (00_scope.md R7). -/
def RsbConfig.masksOk (c : RsbConfig) : Bool :=
  c.ctrlSoftRst.oneBit && c.ctrlStartTrans.oneBit && c.ccrDelayBit.oneBit && c.pmcrStart.oneBit
    && c.ctrlSoftRst != c.ctrlStartTrans

/-- The seven opcodes are distinct (30_encoding.md R80; log 25). -/
def RsbConfig.opcodesOk (c : RsbConfig) : Bool := decide c.opcodes.Nodup

/-- `STAT_SUCCESS != 0` (00_scope.md R7). -/
def RsbConfig.successOk (c : RsbConfig) : Bool := c.statSuccess != 0

/-- `T >= 1` (41_poll.md R143). -/
def RsbConfig.budgetOk (c : RsbConfig) : Bool := decide (1 ≤ c.pollMaxTries)

/-- A well-formed configuration. A model refuses a budget of 0 and a misaligned base or offset (41_poll.md R143,
20_memory.md R64); that it refuses every other ill-formed one too, equal opcodes (30_encoding.md R80) among them, is log 25
(DEDUCED). -/
def RsbConfig.wf (c : RsbConfig) : Bool :=
  c.budgetOk && c.successOk && c.baseOk && c.offsetsOk && c.masksOk && c.opcodesOk

/-- The SADDR and PMCR fields do not overlap: the runtime-address field of a 32-bit SADDR lies above the 12-bit hardware
address, and PMCR's start bit above the 24-bit payload (10_state.md R32). No rule asks this of a configuration: it is a
premise of the statements that need it, and the default configuration meets it. -/
def RsbConfig.fieldsApart (c : RsbConfig) : Bool :=
  decide (12 ≤ c.saddrRtaShift) && decide (c.saddrRtaShift ≤ 24) && c.pmcrStart &&& 0x00FFFFFF#32 == 0

/-- A trigger instruction's word has its trigger bit (40_controller.md R110, R112, R115). A CTRL word with both trigger
bits is the instruction of the first rule that takes it, R110, and not of R112. Every other instruction is well formed:
its operands have the widths of 30_encoding.md R91. -/
def Instr.wellFormed (c : RsbConfig) (i : Instr) : Bool :=
  match i with
  | .ctrlSoftRst v => v &&& c.ctrlSoftRst != 0
  | .ctrlStartTrans v => v &&& c.ctrlStartTrans != 0 && v &&& c.ctrlSoftRst == 0
  | .pmcrStart v => v &&& c.pmcrStart != 0
  | .rsbReset | .rsbSpeed _ _ | .rsbModesw _ | .rsbSrta _ _ | .rsbRd8 _ _ | .rsbWr8 _ _ _ | .rsbRmw _ _ _ _
  | .rsbInit | .cmdSrta | .cmdRd8 | .cmdRd16 | .cmdRd32 | .cmdWr8 | .cmdWr16 | .cmdWr32 => true

end Sys2Proof
end

