-- ==== Sys2Proof/Decode.lean ====
section
/-! DEFINITION. Decoding and encoding (30_encoding.md). Three kinds of word are decoded, each at a port of its own: the
host's request, the CMD register, and a word written to CTRL or PMCR. The byte image of a request is the model's numbering
of fields that the spec carries side by side (log 17): byte 0 holds op in its low nibble, bytes 1 to 4 are a0, 5 to 8 are
a1, 9 is a2 and 10 is a3, the least significant byte first. -/

namespace Sys2Proof

/-- Where an instruction's word stands (00_scope.md R2, R89). -/
inductive Port where
  | request
  | cmd
  | ctrl
  | pmcr
deriving DecidableEq, Repr

/-- How many bytes a port's image has. -/
def Port.bytes : Port → Nat
  | .request => 11
  | .cmd | .ctrl | .pmcr => 4

/-- Why bytes are no instruction. -/
inductive DecodeError where
  /-- The image has the wrong number of bytes for its port. -/
  | badLength (p : Port) (n : Nat)
  /-- A reserved request op, 0x8 to 0xF (30_encoding.md R92). -/
  | reservedOp (op : BitVec 4)
  /-- The high nibble of a request's first byte, which holds no field, is not 0 (log 17). -/
  | padding (b : Byte)
  /-- A reserved CMD value (30_encoding.md R82). -/
  | reservedCommand (w : Word)
  /-- A word written to CTRL or PMCR with no trigger bit set (40_controller.md R127). -/
  | noTrigger (p : Port) (w : Word)
deriving DecidableEq, Repr

/-- The first `n` bytes of a number, the least significant first. -/
def bytesOfNat : Nat → Nat → List Byte
  | 0, _ => []
  | n + 1, w => BitVec.ofNat 8 w :: bytesOfNat n (w / 256)

/-- The number whose bytes these are, the least significant first. -/
def natOfBytes : List Byte → Nat
  | [] => 0
  | b :: bs => b.toNat + 256 * natOfBytes bs

/-- The 32-bit word with these four bytes, the least significant first. -/
def wordOfBytes (b0 b1 b2 b3 : Byte) : Word := b3 ++ b2 ++ b1 ++ b0

/-- The four bytes of a word, the least significant first. -/
def bytesOfWord (w : Word) : List Byte :=
  [w.extractLsb' 0 8, w.extractLsb' 8 8, w.extractLsb' 16 8, w.extractLsb' 24 8]

/-- Decode a request: op, then the fields 30_encoding.md R91 names for it; the other fields are ignored. A reserved op
is refused (R92). -/
def decodeRequest (r : Request) : Option Instr :=
  match r.op.toNat with
  | 0 => some .rsbReset
  | 1 => some (.rsbSpeed r.a0 r.a1)
  | 2 => some (.rsbModesw r.a0.low24)
  | 3 => some (.rsbSrta r.a0.low12 r.a2)
  | 4 => some (.rsbRd8 r.a2 r.a3)
  | 5 => some (.rsbWr8 r.a2 r.a3 r.a1.low8)
  | 6 => some (.rsbRmw r.a2 r.a3 r.a0.low8 r.a1.low8)
  | 7 => some .rsbInit
  | _ => none

/-- Decode a CMD value: all seven commands, and nothing else (30_encoding.md R80 to R82, R95). -/
def decodeCommand (c : RsbConfig) (w : Word) : Option Instr :=
  if w = c.cmdSrta.zext then some .cmdSrta
  else if w = c.cmdRd8.zext then some .cmdRd8
  else if w = c.cmdRd16.zext then some .cmdRd16
  else if w = c.cmdRd32.zext then some .cmdRd32
  else if w = c.cmdWr8.zext then some .cmdWr8
  else if w = c.cmdWr16.zext then some .cmdWr16
  else if w = c.cmdWr32.zext then some .cmdWr32
  else none

/-- Decode a word written to CTRL (20_memory.md R61): the soft-reset bit first, since it is the first the rule lists. -/
def decodeCtrl (c : RsbConfig) (w : Word) : Option Instr :=
  if w &&& c.ctrlSoftRst != 0 then some (.ctrlSoftRst w)
  else if w &&& c.ctrlStartTrans != 0 then some (.ctrlStartTrans w)
  else none

/-- Decode a word written to PMCR (20_memory.md R61). -/
def decodePmcr (c : RsbConfig) (w : Word) : Option Instr :=
  if w &&& c.pmcrStart != 0 then some (.pmcrStart w) else none

/-- The instruction a write of `w` to register `r` triggers, if any (20_memory.md R61, 40_controller.md R127). -/
def decodeTrigger (c : RsbConfig) (r : Reg) (w : Word) : Option Instr :=
  match r with
  | .ctrl => decodeCtrl c w
  | .pmcr => decodePmcr c w
  | .ccr | .inte | .stat | .daddr | .dlen | .data | .lcr | .cmd | .saddr => none

/-- Read a request's fields from its byte image. -/
def requestOfBytes (bytes : List Byte) : Except DecodeError Request :=
  match bytes with
  | [b0, p0, p1, p2, p3, q0, q1, q2, q3, r, g] =>
    if b0.extractLsb' 4 4 = 0 then
      .ok { op := b0.extractLsb' 0 4, a0 := wordOfBytes p0 p1 p2 p3, a1 := wordOfBytes q0 q1 q2 q3, a2 := r, a3 := g }
    else .error (.padding b0)
  | _ => .error (.badLength .request bytes.length)

/-- Read a 32-bit register word from its bytes. -/
def registerWord (p : Port) (bytes : List Byte) : Except DecodeError Word :=
  match bytes with
  | [b0, b1, b2, b3] => .ok (wordOfBytes b0 b1 b2 b3)
  | _ => .error (.badLength p bytes.length)

/-- Turn a missing instruction into a named error. -/
def orError (e : DecodeError) (i : Option Instr) : Except DecodeError Instr :=
  match i with
  | some i => .ok i
  | none => .error e

/-- The decoder: total on any bytes at any port, rejecting by name. -/
def decode (c : RsbConfig) (p : Port) (bytes : List Byte) : Except DecodeError Instr :=
  match p with
  | .request => (requestOfBytes bytes).bind fun r => orError (.reservedOp r.op) (decodeRequest r)
  | .cmd => (registerWord .cmd bytes).bind fun w => orError (.reservedCommand w) (decodeCommand c w)
  | .ctrl => (registerWord .ctrl bytes).bind fun w => orError (.noTrigger .ctrl w) (decodeCtrl c w)
  | .pmcr => (registerWord .pmcr bytes).bind fun w => orError (.noTrigger .pmcr w) (decodePmcr c w)

/-- The request of an instruction on the first level, unused fields 0 (30_encoding.md R91, R96). -/
def encodeRequest (i : Instr) : Option Request :=
  match i with
  | .rsbReset => some { op := 0x0, a0 := 0, a1 := 0, a2 := 0, a3 := 0 }
  | .rsbSpeed src bus => some { op := 0x1, a0 := src, a1 := bus, a2 := 0, a3 := 0 }
  | .rsbModesw payload => some { op := 0x2, a0 := payload.zeroExtend 32, a1 := 0, a2 := 0, a3 := 0 }
  | .rsbSrta hw rt => some { op := 0x3, a0 := hw.zeroExtend 32, a1 := 0, a2 := rt, a3 := 0 }
  | .rsbRd8 rt reg => some { op := 0x4, a0 := 0, a1 := 0, a2 := rt, a3 := reg }
  | .rsbWr8 rt reg val => some { op := 0x5, a0 := 0, a1 := val.zext, a2 := rt, a3 := reg }
  | .rsbRmw rt reg clr set => some { op := 0x6, a0 := clr.zext, a1 := set.zext, a2 := rt, a3 := reg }
  | .rsbInit => some { op := 0x7, a0 := 0, a1 := 0, a2 := 0, a3 := 0 }
  | .cmdSrta | .cmdRd8 | .cmdRd16 | .cmdRd32 | .cmdWr8 | .cmdWr16 | .cmdWr32
  | .ctrlSoftRst _ | .ctrlStartTrans _ | .pmcrStart _ => none

/-- The byte image of a request. -/
def bytesOfRequest (r : Request) : List Byte :=
  (r.op.zeroExtend 8 :: bytesOfWord r.a0) ++ bytesOfWord r.a1 ++ [r.a2, r.a3]

/-- An encoded instruction: the port it belongs to, and its bytes there. -/
structure Encoded where
  port : Port
  bytes : List Byte
deriving DecidableEq, Repr

/-- The encoding of a request instruction: the byte image of its request. -/
def encodedRequest (i : Instr) : Encoded :=
  { port := .request
    bytes := match encodeRequest i with
      | some r => bytesOfRequest r
      | none => [] }

/-- The encoding of a register-level instruction: the word at its port. -/
def encodedWord (p : Port) (w : Word) : Encoded := { port := p, bytes := bytesOfWord w }

/-- The encoder (30_encoding.md R80, R89, R91). -/
def encode (c : RsbConfig) (i : Instr) : Encoded :=
  match i with
  | .rsbReset | .rsbSpeed _ _ | .rsbModesw _ | .rsbSrta _ _ | .rsbRd8 _ _ | .rsbWr8 _ _ _ | .rsbRmw _ _ _ _
  | .rsbInit => encodedRequest i
  | .cmdSrta => encodedWord .cmd c.cmdSrta.zext
  | .cmdRd8 => encodedWord .cmd c.cmdRd8.zext
  | .cmdRd16 => encodedWord .cmd c.cmdRd16.zext
  | .cmdRd32 => encodedWord .cmd c.cmdRd32.zext
  | .cmdWr8 => encodedWord .cmd c.cmdWr8.zext
  | .cmdWr16 => encodedWord .cmd c.cmdWr16.zext
  | .cmdWr32 => encodedWord .cmd c.cmdWr32.zext
  | .ctrlSoftRst v => encodedWord .ctrl v
  | .ctrlStartTrans v => encodedWord .ctrl v
  | .pmcrStart v => encodedWord .pmcr v

/-- What the decoder answers at one port for the instruction whose bits are `w`, its higher bits 0. -/
def decodeAt (c : RsbConfig) (p : Port) (w : Nat) : Option Instr :=
  match decode c p (bytesOfNat p.bytes w) with
  | .ok i => some i
  | .error _ => none

/-- The order in which a table word is offered to the ports. The table's rows stand in four different places and it does
not say which in a word's bits; a request row has only its op, one byte (log 17). -/
def tablePorts (nbits : Nat) : List Port :=
  if nbits ≤ 8 then [.request, .ctrl, .pmcr, .cmd] else [.cmd, .pmcr, .ctrl, .request]

/-- The port a table word belongs to: the first whose decoder takes it. -/
def tablePort (c : RsbConfig) (nbits w : Nat) : Option Port :=
  (tablePorts nbits).find? fun p => (decodeAt c p w).isSome

/-- The instruction the decoder reads from a table word, under the default configuration. -/
def decodeTableWord (nbits w : Nat) : Option Instr :=
  match tablePort RsbConfig.default nbits w with
  | some p => decodeAt RsbConfig.default p w
  | none => none

end Sys2Proof
end

