-- ==== Sys2Proof/Machine/State.lean ====
section
/-! DEFINITION. The machine's state as plain data (10_state.md), the reasons a step can stop, and the state after reset. -/

namespace Sys2Proof.Machine

/-- Faults: the machine has no step. -/
inductive Fault where
  /-- Raised by the sequencer's step when `S.phase = RUN` and `S.mpc` names no micro-op: no rule of the spec gives such
  a state a step, and no step of the model reaches one. Safe (log 20). -/
  | noMicroOp
deriving DecidableEq, Repr

/-- Refusals: the model gives no meaning. -/
inductive Refusal where
  /-- Raised by `exec` for an instruction that has no meaning yet. Safe. -/
  | notModelled (mnemonic : String)
  /-- Raised by the sequencer's step for a request whose op is reserved: a model refuses it by name
  (30_encoding.md R92, 60_exceptions.md R222). Safe. -/
  | reservedRequest (op : BitVec 4)
  /-- Raised by a register access at an offset that is none of the eleven: a model refuses it (20_memory.md R61). Safe. -/
  | badOffset (off : Word)
  /-- Raised by a write to STAT, to which the model gives no meaning (40_controller.md R127). Safe (log 14). -/
  | statWrite (v : Word)
  /-- Raised by every step under an ill-formed configuration, which a model refuses (41_poll.md R143, 20_memory.md R64), with
  the conditions of 00_scope.md R7 and 30_encoding.md R80 counted in (log 25, DEDUCED). Safe. -/
  | illFormedConfig
deriving DecidableEq, Repr

/-- `S.phase` (10_state.md R21). -/
inductive Phase where
  | idle
  | run
deriving DecidableEq, Repr

/-- The sequencer's state (10_state.md R20 to R25). -/
structure Seq where
  phase : Phase
  op : ReqOp
  src : Word
  bus : Word
  payload : Payload
  hw : HwAddr
  rt : Byte
  reg : Byte
  val : Byte
  clr : Byte
  set : Byte
  mprog : List MicroOp
  mpc : Nat
  tries : Nat
  data : Byte
  respValid : Bool
  respKind : RespKind
  respCode : Word
  respData : Byte
  stage : Nat
  old : Byte
deriving DecidableEq, Repr

/-- The stored words of the controller's registers (10_state.md R26). What a read returns is `regRead`'s business. -/
structure RegFile where
  ctrl : Word
  ccr : Word
  inte : Word
  stat : Word
  daddr : Word
  dlen : Word
  data : Word
  lcr : Word
  pmcr : Word
  cmd : Word
  saddr : Word
deriving DecidableEq, Repr

/-- `C.busy`, the controller operation in flight (10_state.md R27). -/
inductive Busy where
  | none
  | resetting
  | trans (cmd saddr daddr data : Word)
  | pmode (payload : Payload)
deriving DecidableEq, Repr

/-- The controller's state (10_state.md R26, R27, R39). -/
structure Ctl where
  regs : RegFile
  busy : Busy
  wasReset : Bool
deriving DecidableEq, Repr

/-- `P.mode` (10_state.md R34). -/
inductive DevMode where
  | i2c
  | rsb
deriving DecidableEq, Repr

/-- The device register space (20_memory.md R60) as a list of cells in canonical form: addresses strictly rising and
below 256, no cell equal to `Config.unlistedByte`. -/
abbrev Memory := List Host.Cell

/-- The device's state (10_state.md R34 to R36). -/
structure Dev where
  mode : DevMode
  hw : HwAddr
  rt : Option Byte
  regs : Memory
deriving DecidableEq, Repr

/-- The sticky model flags (10_state.md R33). -/
structure FaultFlags where
  notReady : Bool
  notReset : Bool
  overlap : Bool
  badCmd : Bool
deriving DecidableEq, Repr

/-- A response as H reads it from the response registers (10_state.md R24). -/
structure Response where
  kind : RespKind
  code : Word
  data : Byte
deriving DecidableEq, Repr

/-- What a power-off or reboot does at the block: one WRITE8 or RMW to a PMIC register (45_client_boundary.md R213). Which of
the two, the register and the bits are not in source, so the action carries them (log 30). -/
inductive PowerWrite where
  | write8 (reg val : Byte)
  | rmw (reg clr set : Byte)
deriving DecidableEq, Repr

/-- One line of a host program (30_encoding.md R96): an ordinary request, or the access of a power-off or reboot,
after which the host presents nothing (45_client_boundary.md R213). -/
inductive HostAction where
  | request (r : Request)
  | powerAction (w : PowerWrite)
deriving DecidableEq, Repr

/-- The host's condition: running its program, stopped at a response that was not OK (30_encoding.md R96), or off after a
power action (45_client_boundary.md R213). -/
inductive HostStatus where
  | running
  | stopped
  | off
deriving DecidableEq, Repr

/-- The host's state: what is left of its program, whether it waits for the response to a request it presented, and the
responses it has read, the oldest first. -/
structure HostAgent where
  program : List HostAction
  awaiting : Bool
  status : HostStatus
  received : List Response
deriving DecidableEq, Repr

/-- The whole machine: the four agents, the ports between them, the launch parameters, and the model's own scheduling and
draw data (log 4, log 5). -/
structure State where
  /-- The parameters of 00_scope.md R6; no step changes them. -/
  cfg : RsbConfig
  seq : Seq
  ctl : Ctl
  dev : Dev
  flags : FaultFlags
  /-- The launch flag of 10_state.md R33; no step changes it. -/
  platformReady : Bool
  /-- The request port (30_encoding.md R90). -/
  request : Option Request
  /-- The sequencer's reset line (70_reset_and_hazards.md R250): the next step of S obeys it and clears it (log 8). -/
  seqResetIn : Bool
  host : HostAgent
  /-- MODEL: the agent whose step comes next. -/
  turn : Agent
  /-- MODEL: the agents whose steps come after it; past its end, `Config.turn`. -/
  plan : List Agent
  /-- MODEL: how many turns have passed. -/
  planIndex : Nat
  /-- MODEL: the coming draws; past its end, `Config.draw`. -/
  script : List Word
  /-- MODEL: how many draws have been made. -/
  drawIndex : Nat
deriving DecidableEq, Repr

/-- The kind that two bits encode (30_encoding.md R93). -/
def respKindOfBits (b : BitVec 2) : RespKind :=
  match b.toNat with
  | 0 => .ok
  | 1 => .timeout
  | 2 => .hwStatus
  | _ => .invalidArgument

/-- The sequencer after reset (10_state.md R38, 70_reset_and_hazards.md R250): the fields R38 calls unspecified are free
values (log 3); the micro-program is empty (log 9). -/
def Seq.reset : Seq where
  phase := .idle
  op := ReqOp.ofBits ((Config.powerOn 11).truncate 3)
  src := Config.powerOn 12
  bus := Config.powerOn 13
  payload := (Config.powerOn 14).low24
  hw := (Config.powerOn 15).low12
  rt := (Config.powerOn 16).low8
  reg := (Config.powerOn 17).low8
  val := (Config.powerOn 18).low8
  clr := (Config.powerOn 19).low8
  set := (Config.powerOn 20).low8
  mprog := []
  mpc := 0
  tries := 0
  data := (Config.powerOn 21).low8
  respValid := false
  respKind := respKindOfBits ((Config.powerOn 23).truncate 2)
  respCode := Config.powerOn 24
  respData := (Config.powerOn 25).low8
  stage := 0
  old := (Config.powerOn 22).low8

/-- The controller at power-on (10_state.md R38): STAT is 0, every other register word a free value (log 3), nothing in
flight, never reset. -/
def Ctl.reset : Ctl where
  regs :=
    { ctrl := Config.powerOn 0, ccr := Config.powerOn 1, inte := Config.powerOn 2, stat := 0x00000000#32
      daddr := Config.powerOn 4, dlen := Config.powerOn 5, data := Config.powerOn 6, lcr := Config.powerOn 7
      pmcr := Config.powerOn 8, cmd := Config.powerOn 9, saddr := Config.powerOn 10 }
  busy := .none
  wasReset := false

/-- The device at PMIC power-on (10_state.md R34, R35, R38); its registers are a launch parameter (log 6). -/
def Dev.reset : Dev where
  mode := .i2c
  hw := RsbConfig.default.pmicHwAddr
  rt := Option.none
  regs := []

/-- The machine right after reset: every field at the value of 10_state.md R38; the launch parameters as log 6 says, the
ports empty and the host without a program (log 7), the model's own fields at their start (log 4, log 5). -/
def State.reset : State where
  cfg := RsbConfig.default
  seq := Seq.reset
  ctl := Ctl.reset
  dev := Dev.reset
  flags := { notReady := false, notReset := false, overlap := false, badCmd := false }
  platformReady := true
  request := Option.none
  seqResetIn := false
  host := { program := [], awaiting := false, status := .running, received := [] }
  turn := .sequencer
  plan := []
  planIndex := 0
  script := []
  drawIndex := 0

end Sys2Proof.Machine
end

