-- ==== Sys2Proof/Machine/Operands.lean ====
section
/-! DEFINITION. Operand forms: the offsets of the registers, the register values S assembles (30_encoding.md R83 to R89), the
fields C reads back out of them (40_controller.md R115 to R119), and the micro-programs (42_bus_controller_ops.md,
43_transactions.md, 44_init.md). -/

namespace Sys2Proof.Machine

/-- The byte offset of a register (00_scope.md R6). -/
def offsetOf (c : RsbConfig) (r : Reg) : Word :=
  match r with
  | .ctrl => c.offCtrl
  | .ccr => c.offCcr
  | .inte => c.offInte
  | .stat => c.offStat
  | .daddr => c.offDaddr
  | .dlen => c.offDlen
  | .data => c.offData
  | .lcr => c.offLcr
  | .pmcr => c.offPmcr
  | .cmd => c.offCmd
  | .saddr => c.offSaddr

/-- The register at an offset, if one of the eleven stands there (20_memory.md R61). -/
def regAt (c : RsbConfig) (off : Word) : Option Reg := Reg.all.find? fun r => offsetOf c r == off

/-- The check of SET_SPEED: `bus != 0`, tested first, and `src / bus >= 2` (42_bus_controller_ops.md R161). -/
def speedOk (src bus : Word) : Bool := bus != 0 && decide (2 ≤ src.toNat / bus.toNat)

/-- The CCR value of a speed request, floor division, no clamp (30_encoding.md R83). -/
def ccrValue (c : RsbConfig) (src bus : Word) : Word :=
  BitVec.ofNat 32 (src.toNat / bus.toNat / 2 - 1) ||| c.ccrDelayBit

/-- The PMCR value of a mode-switch payload (30_encoding.md R84). -/
def pmcrValue (c : RsbConfig) (p : Payload) : Word := c.pmcrStart ||| p.zeroExtend 32

/-- The SADDR value for RD8 and WR8 (30_encoding.md R86). -/
def saddrRw (c : RsbConfig) (rt : Byte) : Word := rt.zext <<< c.saddrRtaShift

/-- The SADDR value for SRTA (30_encoding.md R85). -/
def saddrSrta (c : RsbConfig) (hw : HwAddr) (rt : Byte) : Word := saddrRw c rt ||| hw.zeroExtend 32

/-- The runtime-address field of a SADDR word: `[SHIFT+7 : SHIFT]` (10_state.md R32), `sa[23:16]` by default. -/
def saddrRta (c : RsbConfig) (sa : Word) : Byte := Word.low8 (sa >>> c.saddrRtaShift)

/-- The hardware-address field of a SADDR word: the bits below the runtime-address field, `sa[15:0]` by default
(10_state.md R32). DEDUCED for another shift (log 15). -/
def saddrHw (c : RsbConfig) (sa : Word) : Word := sa &&& ((1#32 <<< c.saddrRtaShift) - 1#32)

/-- The data byte `p[23:16]` of a mode-switch payload (30_encoding.md R84). -/
def payloadData (p : Payload) : Byte := p.extractLsb' 16 8

/-- The device register `p[15:8]` of a mode-switch payload (30_encoding.md R84). -/
def payloadReg (p : Payload) : Byte := p.extractLsb' 8 8

/-- The device's mode-switch command: 0x7C written to register 0x3E (40_controller.md R116). -/
def isModeSwitch (p : Payload) : Bool := payloadReg p == 0x3E#8 && payloadData p == 0x7C#8

/-- The byte an RMW writes back: set wins over clear on a shared bit (43_transactions.md R182). -/
def rmwNew (old clr set : Byte) : Byte := (old &&& ~~~clr) ||| set

/-- The tail every transaction ends with before its result: trigger start, wait for the busy bit, check the status
(41_poll.md R142). -/
def startAndWait (c : RsbConfig) : List MicroOp :=
  [.wr c.offCtrl c.ctrlStartTrans, .poll c.offCtrl c.ctrlStartTrans, .status]

/-- The micro-program of a part: 42_bus_controller_ops.md R160 to R163, 43_transactions.md R180 and R181. -/
def prog (c : RsbConfig) (p : Part) : List MicroOp :=
  match p with
  | .reset => [.wr c.offCtrl c.ctrlSoftRst, .poll c.offCtrl c.ctrlSoftRst]
  | .setSpeed src bus => [.wr c.offCcr (ccrValue c src bus)]
  | .modeSwitch payload => [.wr c.offPmcr (pmcrValue c payload), .poll c.offPmcr c.pmcrStart]
  | .assignRta hw rt => [.wr c.offSaddr (saddrSrta c hw rt), .wr c.offCmd c.cmdSrta.zext] ++ startAndWait c
  | .read8 rt reg =>
    [.wr c.offCmd c.cmdRd8.zext, .wr c.offSaddr (saddrRw c rt), .wr c.offDaddr reg.zext] ++ startAndWait c ++ [.rddata]
  | .write8 rt reg val =>
    [.wr c.offCmd c.cmdWr8.zext, .wr c.offSaddr (saddrRw c rt), .wr c.offDaddr reg.zext, .wr c.offData val.zext]
      ++ startAndWait c

/-- The check at the start of a part; only SET_SPEED has one (42_bus_controller_ops.md R161). -/
def partOk (p : Part) : Bool :=
  match p with
  | .setSpeed src bus => speedOk src bus
  | .reset | .modeSwitch _ | .assignRta _ _ | .read8 _ _ | .write8 _ _ _ => true

/-- The last stage of INIT (44_init.md R200). -/
def initLastStage : Nat := 4

/-- The sub-operation of an INIT stage (44_init.md R200); a stage past the last is the last. -/
def initPart (c : RsbConfig) (stage : Nat) : Part :=
  match stage with
  | 0 => .reset
  | 1 => .setSpeed c.hsSrcFreq c.hsBusFreq
  | 2 => .modeSwitch c.modeSwitchPayload
  | 3 => .setSpeed c.hsSrcFreq c.opBusFreq
  | _ => .assignRta c.pmicHwAddr c.pmicRtAddr

/-- The request of a READ8 (30_encoding.md R91). -/
def read8Request (rt reg : Byte) : Request := { op := 0x4, a0 := 0, a1 := 0, a2 := rt, a3 := reg }

/-- The request of a WRITE8 (30_encoding.md R91). -/
def write8Request (rt reg val : Byte) : Request := { op := 0x5, a0 := 0, a1 := val.zext, a2 := rt, a3 := reg }

/-- The request of an RMW (30_encoding.md R91). -/
def rmwRequest (rt reg clr set : Byte) : Request := { op := 0x6, a0 := clr.zext, a1 := set.zext, a2 := rt, a3 := reg }

/-- The request of a power-off or reboot, at the PMIC's runtime address (45_client_boundary.md R210, R213). -/
def powerRequest (c : RsbConfig) (w : PowerWrite) : Request :=
  match w with
  | .write8 reg val => write8Request c.pmicRtAddr reg val
  | .rmw reg clr set => rmwRequest c.pmicRtAddr reg clr set

/-- Is a device register volatile? 0x80 to 0xFF and the read-clear register always are (10_state.md R36, R37; log 26). -/
def isVolatile (c : RsbConfig) (a : Byte) : Bool :=
  decide (0x80 ≤ a.toNat) || a == c.devReadClear || decide (a ∈ c.devVolatile)

end Sys2Proof.Machine
end

