-- ==== Sys2Proof/Machine/Flags.lean ====
section
/-! DEFINITION. The model's fault flags (10_state.md R33): when each one is set. They are sticky, the machine goes on, and S
never sees them (60_exceptions.md R234; log 19). -/

namespace Sys2Proof.Machine

/-- Any register access while the platform preconditions do not hold sets `F.not_ready` (70_reset_and_hazards.md R251). -/
def accessFlags (s : State) : FaultFlags := { s.flags with notReady := s.flags.notReady || !s.platformReady }

/-- Any register write also sets `F.overlap` while a controller operation is in flight (70_reset_and_hazards.md R254). -/
def writeFlags (s : State) : FaultFlags :=
  { accessFlags s with overlap := s.flags.overlap || s.ctl.busy != .none }

/-- A start or mode-switch trigger before the first completed soft reset sets `F.not_reset` (70_reset_and_hazards.md R253). -/
def needsReset (s : State) : Bool := !s.ctl.wasReset

/-- A transaction started with a CMD value other than SRTA, RD8 or WR8 sets `F.bad_cmd` (40_controller.md R112). -/
def unsupportedCmd (c : RsbConfig) (w : Word) : Bool :=
  w != c.cmdSrta.zext && w != c.cmdRd8.zext && w != c.cmdWr8.zext

/-- Does a CTRL word start a soft reset (40_controller.md R110)? -/
def startsReset (c : RsbConfig) (v : Word) : Bool := v &&& c.ctrlSoftRst != 0

/-- Does a CTRL word start a transaction (40_controller.md R112)? -/
def startsTrans (c : RsbConfig) (v : Word) : Bool := v &&& c.ctrlStartTrans != 0

/-- Does a PMCR word start a mode switch (40_controller.md R115)? -/
def startsSwitch (c : RsbConfig) (v : Word) : Bool := v &&& c.pmcrStart != 0

/-- The flags after a CTRL write: those of any write, `F.overlap` for both trigger bits at once, and what a transaction
start adds (40_controller.md R110, R112). -/
def ctrlWriteFlags (v : Word) (s : State) : FaultFlags :=
  { writeFlags s with
    overlap := (writeFlags s).overlap || (startsReset s.cfg v && startsTrans s.cfg v)
    notReset := s.flags.notReset || (startsTrans s.cfg v && needsReset s)
    badCmd := s.flags.badCmd || (startsTrans s.cfg v && unsupportedCmd s.cfg s.ctl.regs.cmd) }

/-- The flags after a PMCR write: those of any write, and what a mode-switch start adds (40_controller.md R115). -/
def pmcrWriteFlags (v : Word) (s : State) : FaultFlags :=
  { writeFlags s with notReset := s.flags.notReset || (startsSwitch s.cfg v && needsReset s) }

/-- No fault flag is set (60_exceptions.md R234). -/
def FaultFlags.clear (f : FaultFlags) : Bool := !f.notReady && !f.notReset && !f.overlap && !f.badCmd

end Sys2Proof.Machine
end

