-- ==== Sys2Proof/Machine/Ops.lean ====
section
/-! DEFINITION. The shared operations: draws and turns, the device register space, the controller's registers, the accesses
S makes, and the entry to and the return from an operation (60_exceptions.md R221, 00_scope.md R14). -/

namespace Sys2Proof.Machine

/-! ## Draws and turns -/

/-- The k-th coming draw: from the script, or past its end the free value (10_state.md R38; log 4). -/
def peekDraw (s : State) (k : Nat) : Word :=
  match s.script[k]? with
  | some w => w
  | none => Config.draw (s.drawIndex + k)

/-- Make `k` draws. -/
def consumeDraws (k : Nat) (s : State) : State :=
  { s with script := s.script.drop k, drawIndex := s.drawIndex + k }

/-- A drawn byte. -/
def peekByte (s : State) (k : Nat) : Byte := (peekDraw s k).low8

/-- A drawn choice. -/
def peekBool (s : State) (k : Nat) : Bool := (peekDraw s k).getLsbD 0

/-- Pass the turn to the next agent: the planned one, or past the plan's end the free value (40_controller.md R125; log 5). -/
def passTurn (s : State) : State :=
  match s.plan with
  | a :: rest => { s with turn := a, plan := rest, planIndex := s.planIndex + 1 }
  | [] => { s with turn := Config.turn s.planIndex, planIndex := s.planIndex + 1 }

/-- Go on from a next state; keep a stop. -/
def onNext (o : Host.Outcome State Fault Refusal) (f : State → State) : Host.Outcome State Fault Refusal :=
  match o with
  | .next s => .next (f s)
  | .fault e => .fault e
  | .refused e => .refused e

/-! ## The device register space -/

/-- The byte the device register space holds at an address. -/
def memRead (m : Memory) (a : Nat) : Byte :=
  match m with
  | [] => Config.unlistedByte
  | (k, v) :: rest => if k = a then v else memRead rest a

/-- Store a byte, keeping the canonical form. -/
def memWrite (m : Memory) (a : Nat) (b : Byte) : Memory :=
  match m with
  | [] => if b = Config.unlistedByte then [] else [(a, b)]
  | (k, v) :: rest =>
    if a < k then (if b = Config.unlistedByte then (k, v) :: rest else (a, b) :: (k, v) :: rest)
    else if a = k then (if b = Config.unlistedByte then rest else (a, b) :: rest)
    else (k, v) :: memWrite rest a b

/-- The canonical form from address `lo` up: addresses strictly rising, below 256, no cell at the unlisted byte. -/
def memWfFrom (lo : Nat) (m : Memory) : Bool :=
  match m with
  | [] => true
  | (k, v) :: rest => decide (lo ≤ k) && decide (k < 256) && v != Config.unlistedByte && memWfFrom (k + 1) rest

/-- The device register space is in canonical form. -/
def Memory.wf (m : Memory) : Bool := memWfFrom 0 m

/-- A device register space whose every byte is given by a table of 256 bytes, from address `a` on. -/
def memOfTable (a : Nat) (bytes : List Byte) : Memory :=
  match bytes with
  | [] => []
  | b :: rest => if b = Config.unlistedByte then memOfTable (a + 1) rest else (a, b) :: memOfTable (a + 1) rest

/-- `DevRead`, the byte returned: a volatile register returns the draw `d` (20_memory.md R66). -/
def devReadByte (c : RsbConfig) (m : Memory) (a d : Byte) : Byte :=
  if isVolatile c a then d else memRead m a.toNat

/-- `DevRead`, its effect: a read of the read-clear register clears it (20_memory.md R66). What value clearing leaves is not
in source (93_implementation_defined.md U15, any value): DESIGN CHOICE, the 0x00 that R66 shows, unsafe (log 31). -/
def devReadEffect (c : RsbConfig) (m : Memory) (a : Byte) : Memory :=
  if a = c.devReadClear then memWrite m a.toNat 0x00#8 else m

/-- `DevWrite`: a volatile register becomes the draw `d` (20_memory.md R66). -/
def devWrite (c : RsbConfig) (m : Memory) (a b d : Byte) : Memory :=
  memWrite m a.toNat (if isVolatile c a then d else b)

/-! ## The controller's registers -/

/-- The stored word of a register. -/
def regGet (f : RegFile) (r : Reg) : Word :=
  match r with
  | .ctrl => f.ctrl
  | .ccr => f.ccr
  | .inte => f.inte
  | .stat => f.stat
  | .daddr => f.daddr
  | .dlen => f.dlen
  | .data => f.data
  | .lcr => f.lcr
  | .pmcr => f.pmcr
  | .cmd => f.cmd
  | .saddr => f.saddr

/-- Store a word in a register. -/
def regSet (f : RegFile) (r : Reg) (v : Word) : RegFile :=
  match r with
  | .ctrl => { f with ctrl := v }
  | .ccr => { f with ccr := v }
  | .inte => { f with inte := v }
  | .stat => { f with stat := v }
  | .daddr => { f with daddr := v }
  | .dlen => { f with dlen := v }
  | .data => { f with data := v }
  | .lcr => { f with lcr := v }
  | .pmcr => { f with pmcr := v }
  | .cmd => { f with cmd := v }
  | .saddr => { f with saddr := v }

/-- Is a transaction in flight? -/
def Busy.isTrans (b : Busy) : Bool :=
  match b with
  | .trans _ _ _ _ => true
  | .none | .resetting | .pmode _ => false

/-- Is a mode switch in flight? -/
def Busy.isPmode (b : Busy) : Bool :=
  match b with
  | .pmode _ => true
  | .none | .resetting | .trans _ _ _ _ => false

/-- A mask, or nothing. -/
def bitIf (b : Bool) (mask : Word) : Word := if b then mask else 0

/-- What CTRL reads: only the two trigger bits are defined, every other bit is the draw's (10_state.md R28). -/
def ctrlRead (s : State) : Word :=
  (peekDraw s 0 &&& ~~~(s.cfg.ctrlSoftRst ||| s.cfg.ctrlStartTrans))
    ||| bitIf (s.ctl.busy == .resetting) s.cfg.ctrlSoftRst
    ||| bitIf s.ctl.busy.isTrans s.cfg.ctrlStartTrans

/-- What PMCR reads: the stored word, its start bit from the operation in flight (10_state.md R32). -/
def pmcrRead (s : State) : Word :=
  (s.ctl.regs.pmcr &&& ~~~s.cfg.pmcrStart) ||| bitIf s.ctl.busy.isPmode s.cfg.pmcrStart

/-- The current value of a register (20_memory.md R62). -/
def regRead (r : Reg) (s : State) : Word :=
  match r with
  | .ctrl => ctrlRead s
  | .pmcr => pmcrRead s
  | .ccr | .inte | .stat | .daddr | .dlen | .data | .lcr | .cmd | .saddr => regGet s.ctl.regs r

/-- The word a register read returns to S: a draw before the platform preconditions hold (70_reset_and_hazards.md R251). -/
def readValue (r : Reg) (s : State) : Word := if s.platformReady then regRead r s else peekDraw s 0

/-- What a register read leaves: nothing changes but `F.not_ready` and the draw a read of CTRL, or of any register before
the preconditions hold, makes (20_memory.md R62, 70_reset_and_hazards.md R251). -/
def afterRead (r : Reg) (s : State) : State :=
  consumeDraws (if r = .ctrl ∨ s.platformReady = false then 1 else 0) { s with flags := accessFlags s }

/-- A register write that starts nothing: it stores the word (20_memory.md R61, 40_controller.md R127). -/
def plainWrite (r : Reg) (v : Word) (s : State) : State :=
  { s with flags := writeFlags s, ctl := { s.ctl with regs := regSet s.ctl.regs r v } }

/-! ## Entry to and return from an operation -/

/-- `respond(kind, code, data)`: the end of every operation, an error too (00_scope.md R14, 10_state.md R24,
60_exceptions.md R224, R225). -/
def respond (kind : RespKind) (code : Word) (data : Byte) (s : State) : State :=
  { s with
    seq :=
      { s.seq with
        respValid := true, respKind := kind, respCode := code, respData := data, phase := .idle, tries := 0 } }

/-- `start_part(o)`: answer an invalid speed at once, else load the micro-program (41_poll.md R145). -/
def startPart (p : Part) (s : State) : State :=
  if partOk p then { s with seq := { s.seq with mprog := prog s.cfg p, mpc := 0, tries := 0 } }
  else respond .invalidArgument 0 0 s

/-- The end of RMW's read part: compute the byte, start the write part (43_transactions.md R182). -/
def rmwWritePart (s : State) : State :=
  startPart (.write8 s.seq.rt s.seq.reg (rmwNew s.seq.data s.seq.clr s.seq.set))
    { s with seq := { s.seq with old := s.seq.data, stage := 1 } }

/-- The end of an INIT stage before the last: start the next (44_init.md R200). -/
def initNextStage (s : State) : State :=
  startPart (initPart s.cfg (s.seq.stage + 1)) { s with seq := { s.seq with stage := s.seq.stage + 1 } }

/-- `part_done()`, in the step that ran a part's last micro-op (41_poll.md R145). A stage past an operation's last, which
no step reaches, ends the operation (log 21). -/
def partDone (s : State) : State :=
  match s.seq.op with
  | .read8 => respond .ok 0 s.seq.data s
  | .reset | .setSpeed | .modeSwitch | .assignRta | .write8 => respond .ok 0 0 s
  | .rmw => if s.seq.stage = 0 then rmwWritePart s else respond .ok 0 0 s
  | .init => if s.seq.stage < initLastStage then initNextStage s else respond .ok 0 0 s

/-- Advance past a micro-op, and end the part after its last (41_poll.md R145 to R149). -/
def advance (s : State) : State :=
  if s.seq.mpc + 1 = s.seq.mprog.length then partDone { s with seq := { s.seq with mpc := s.seq.mpc + 1 } }
  else { s with seq := { s.seq with mpc := s.seq.mpc + 1 } }

/-- The operand latches with unspecified values, nine draws: a latch the accepted operation does not use holds an
unspecified value (10_state.md R21; log 10). -/
def freshLatches (s : State) : Seq :=
  { s.seq with
    src := peekDraw s 0, bus := peekDraw s 1, payload := (peekDraw s 2).low24, hw := (peekDraw s 3).low12
    rt := peekByte s 4, reg := peekByte s 5, val := peekByte s 6, clr := peekByte s 7, set := peekByte s 8 }

/-- Acceptance, the entry to an operation (60_exceptions.md R221): consume the request, latch the operation and its
operands (already put into `latched`), clear the response's valid bit, start the first part. No register access. -/
def accept (op : ReqOp) (latched : Seq) (first : Part) (s : State) : State :=
  startPart first
    (consumeDraws 9
      { s with
        request := none
        seq := { latched with op := op, respValid := false, phase := .run, stage := 0, tries := 0 } })

/-- A request is accepted in IDLE and waits in RUN (60_exceptions.md R221). -/
def acceptWhenIdle (op : ReqOp) (latched : Seq) (first : Part) (s : State) : Host.Outcome State Fault Refusal :=
  match s.seq.phase with
  | .idle => .next (accept op latched first s)
  | .run => .next s

/-- The sequencer's reset (70_reset_and_hazards.md R250): IDLE, no response, the position at 0; every other field of S is
unspecified, so drawn, and the micro-program is empty (log 8, log 9). C, P and the request port are as they were. -/
def seqReset (s : State) : State :=
  consumeDraws 15
    { s with
      seqResetIn := false
      seq :=
        { freshLatches s with
          phase := .idle, respValid := false, tries := 0, mpc := 0, stage := 0, mprog := []
          op := ReqOp.ofBits ((peekDraw s 9).truncate 3), data := peekByte s 10, old := peekByte s 11
          respKind := respKindOfBits ((peekDraw s 12).truncate 2), respCode := peekDraw s 13
          respData := peekByte s 14 } }

end Sys2Proof.Machine
end

