-- ==== Sys2Proof/Machine/Commands.lean ====
section
/-! DEFINITION. The controller's completions: of a soft reset (40_controller.md R111), of a mode switch (R116), and of a
transaction with each of the seven bus commands (R113, R114, R117 to R123). A completion is one atomic step of C
(20_memory.md R69). A bus command's meaning is the completion of the transaction in flight; where none is in flight C has
no such step and nothing happens (log 18). -/

namespace Sys2Proof.Machine

/-- Completion of a soft reset: every register a draw, the device untouched (40_controller.md R111). -/
def softResetDone (s : State) : State :=
  consumeDraws 11
    { s with
      ctl :=
        { busy := .none, wasReset := true
          regs :=
            { ctrl := peekDraw s 0, ccr := peekDraw s 1, inte := peekDraw s 2, stat := peekDraw s 3
              daddr := peekDraw s 4, dlen := peekDraw s 5, data := peekDraw s 6, lcr := peekDraw s 7
              pmcr := peekDraw s 8, cmd := peekDraw s 9, saddr := peekDraw s 10 } } }

/-- The device after a mode-switch write it received in I2C mode: the mode switch itself, or a plain register write
(40_controller.md R116). -/
def devAfterSwitch (s : State) (p : Payload) (d : Byte) : Dev :=
  if isModeSwitch p then { s.dev with mode := .rsb, rt := none }
  else { s.dev with regs := devWrite s.cfg s.dev.regs (payloadReg p) (payloadData p) d }

/-- Completion of a mode switch: in I2C mode the write is received or not, a draw; in RSB mode nothing happens on the
device; STAT is unchanged (40_controller.md R116; log 22). -/
def modeSwitchDone (p : Payload) (s : State) : State :=
  consumeDraws 2
    { s with
      ctl := { s.ctl with busy := .none }
      dev :=
        match s.dev.mode with
        | .i2c => if peekBool s 0 then devAfterSwitch s p (peekByte s 1) else s.dev
        | .rsb => s.dev }

/-- Does an SRTA address the device: RSB mode and its hardware address (40_controller.md R117)? -/
def matchesHw (s : State) (sa : Word) : Bool :=
  s.dev.mode == .rsb && saddrHw s.cfg sa == s.dev.hw.zeroExtend 32

/-- Does a RD8 or WR8 address the device: RSB mode and its runtime address (40_controller.md R118, R119)? -/
def matchesRt (s : State) (sa : Word) : Bool :=
  s.dev.mode == .rsb && s.dev.rt == some (saddrRta s.cfg sa)

/-- The status a completion reports: any word, but success only where a device was addressed (40_controller.md R113). The
draw `STAT_SUCCESS` without a match stands for its complement, so every other word remains possible (log 13). -/
def statusDraw (c : RsbConfig) (addressed : Bool) (d : Word) : Word :=
  if d = c.statSuccess ∧ addressed = false then ~~~d else d

/-- Is the command's effect performed: always with success, else a draw, whether or not a device was addressed
(40_controller.md R113, R124; log 12)? -/
def effectPerformed (c : RsbConfig) (status : Word) (choice : Bool) : Bool := status == c.statSuccess || choice

/-- The status a completion of this transaction reports, from the first coming draw. -/
def reportedStatus (s : State) (addressed : Bool) : Word := statusDraw s.cfg addressed (peekDraw s 0)

/-- Whether this transaction has its effect, from the first two coming draws. -/
def hasEffect (s : State) (addressed : Bool) : Bool :=
  effectPerformed s.cfg (reportedStatus s addressed) (peekBool s 1)

/-- The controller after a completion that reports `status` and leaves `data` in DATA. -/
def ctlCompleted (s : State) (status data : Word) : Ctl :=
  { s.ctl with busy := .none, regs := { s.ctl.regs with stat := status, data := data } }

/-- Completion of an SRTA: on an effect the device takes the runtime address (40_controller.md R117). -/
def srtaDone (sa : Word) (s : State) : State :=
  consumeDraws 2
    { s with
      ctl := ctlCompleted s (reportedStatus s (matchesHw s sa)) s.ctl.regs.data
      dev := if hasEffect s (matchesHw s sa) then { s.dev with rt := some (saddrRta s.cfg sa) } else s.dev }

/-- DATA after a RD8: the byte below 24 drawn bits, or wholly a draw without an effect (40_controller.md R118). -/
def rd8Data (s : State) (sa da : Word) : Word :=
  if hasEffect s (matchesRt s sa) then
    (peekDraw s 2).extractLsb' 8 24 ++ devReadByte s.cfg s.dev.regs da.low8 (peekByte s 3)
  else peekDraw s 2

/-- Completion of a RD8 (40_controller.md R118). -/
def rd8Done (sa da : Word) (s : State) : State :=
  consumeDraws 4
    { s with
      ctl := ctlCompleted s (reportedStatus s (matchesRt s sa)) (rd8Data s sa da)
      dev :=
        if hasEffect s (matchesRt s sa) then { s.dev with regs := devReadEffect s.cfg s.dev.regs da.low8 } else s.dev }

/-- Completion of a WR8 (40_controller.md R119). -/
def wr8Done (sa da d : Word) (s : State) : State :=
  consumeDraws 3
    { s with
      ctl := ctlCompleted s (reportedStatus s (matchesRt s sa)) s.ctl.regs.data
      dev :=
        if hasEffect s (matchesRt s sa) then
          { s.dev with regs := devWrite s.cfg s.dev.regs da.low8 d.low8 (peekByte s 2) }
        else s.dev }

/-- The first `n` drawn bytes from draw `k` on. -/
def drawnBytes (s : State) (k n : Nat) : List Byte :=
  match n with
  | 0 => []
  | n + 1 => peekByte s k :: drawnBytes s (k + 1) n

/-- Completion of an unsupported or reserved command: STAT, DATA and every device register a draw, the runtime address
unchanged (40_controller.md R114). -/
def unsupportedDone (s : State) : State :=
  consumeDraws 258
    { s with
      ctl := ctlCompleted s (peekDraw s 0) (peekDraw s 1)
      dev := { s.dev with regs := memOfTable 0 (drawnBytes s 2 256) } }

/-- CMD.SRTA (40_controller.md R113, R117). -/
def execCmdSrta (s : State) : Host.Outcome State Fault Refusal :=
  match s.ctl.busy with
  | .trans _ sa _ _ => .next (srtaDone sa s)
  | .none | .resetting | .pmode _ => .next s

/-- CMD.RD8 (40_controller.md R113, R118). -/
def execCmdRd8 (s : State) : Host.Outcome State Fault Refusal :=
  match s.ctl.busy with
  | .trans _ sa da _ => .next (rd8Done sa da s)
  | .none | .resetting | .pmode _ => .next s

/-- CMD.WR8 (40_controller.md R113, R119). -/
def execCmdWr8 (s : State) : Host.Outcome State Fault Refusal :=
  match s.ctl.busy with
  | .trans _ sa da d => .next (wr8Done sa da d s)
  | .none | .resetting | .pmode _ => .next s

/-- The completion of a transaction in flight with a command R114 covers. -/
def unsupportedCompletion (s : State) : Host.Outcome State Fault Refusal :=
  match s.ctl.busy with
  | .trans _ _ _ _ => .next (unsupportedDone s)
  | .none | .resetting | .pmode _ => .next s

/-- CMD.RD16 (40_controller.md R114, R120). -/
def execCmdRd16 (s : State) : Host.Outcome State Fault Refusal := unsupportedCompletion s

/-- CMD.RD32 (40_controller.md R114, R121). -/
def execCmdRd32 (s : State) : Host.Outcome State Fault Refusal := unsupportedCompletion s

/-- CMD.WR16 (40_controller.md R114, R122). -/
def execCmdWr16 (s : State) : Host.Outcome State Fault Refusal := unsupportedCompletion s

/-- CMD.WR32 (40_controller.md R114, R123). -/
def execCmdWr32 (s : State) : Host.Outcome State Fault Refusal := unsupportedCompletion s

end Sys2Proof.Machine
end

