-- ==== Sys2Proof/Machine/Requests.lean ====
section
/-! DEFINITION. The request instructions: each is accepted in one step of S (60_exceptions.md R221), which latches the
operation and its operands and loads the first part's micro-program; the micro-ops then run one a step. -/

namespace Sys2Proof.Machine

/-- rsb.reset (42_bus_controller_ops.md R160). -/
def execRsbReset (s : State) : Host.Outcome State Fault Refusal :=
  acceptWhenIdle .reset (freshLatches s) .reset s

/-- rsb.speed: an invalid speed is accepted and answered in the same step (42_bus_controller_ops.md R161). -/
def execRsbSpeed (src bus : Word) (s : State) : Host.Outcome State Fault Refusal :=
  acceptWhenIdle .setSpeed { freshLatches s with src := src, bus := bus } (.setSpeed src bus) s

/-- rsb.modesw (42_bus_controller_ops.md R162). -/
def execRsbModesw (payload : Payload) (s : State) : Host.Outcome State Fault Refusal :=
  acceptWhenIdle .modeSwitch { freshLatches s with payload := payload } (.modeSwitch payload) s

/-- rsb.srta (42_bus_controller_ops.md R163). -/
def execRsbSrta (hw : HwAddr) (rt : Byte) (s : State) : Host.Outcome State Fault Refusal :=
  acceptWhenIdle .assignRta { freshLatches s with hw := hw, rt := rt } (.assignRta hw rt) s

/-- rsb.rd8 (43_transactions.md R180). -/
def execRsbRd8 (rt reg : Byte) (s : State) : Host.Outcome State Fault Refusal :=
  acceptWhenIdle .read8 { freshLatches s with rt := rt, reg := reg } (.read8 rt reg) s

/-- rsb.wr8 (43_transactions.md R181). -/
def execRsbWr8 (rt reg val : Byte) (s : State) : Host.Outcome State Fault Refusal :=
  acceptWhenIdle .write8 { freshLatches s with rt := rt, reg := reg, val := val } (.write8 rt reg val) s

/-- rsb.rmw: the read part first (43_transactions.md R182). -/
def execRsbRmw (rt reg clr set : Byte) (s : State) : Host.Outcome State Fault Refusal :=
  acceptWhenIdle .rmw { freshLatches s with rt := rt, reg := reg, clr := clr, set := set } (.read8 rt reg) s

/-- rsb.init: stage 0 first (44_init.md R200). -/
def execRsbInit (s : State) : Host.Outcome State Fault Refusal :=
  acceptWhenIdle .init (freshLatches s) .reset s

end Sys2Proof.Machine
end

