-- ==== Sys2Proof/Machine/Triggers.lean ====
section
/-! DEFINITION. The register-trigger instructions (40_controller.md R110, R112, R115): a word written to CTRL or PMCR that
starts a controller operation. Each is the write, one step of S's access; the operation's end is a step of C. -/

namespace Sys2Proof.Machine

/-- The transaction a start captures: CMD, SADDR, DADDR and DATA as they stand (40_controller.md R112). -/
def capturedTrans (s : State) : Busy :=
  .trans s.ctl.regs.cmd s.ctl.regs.saddr s.ctl.regs.daddr s.ctl.regs.data

/-- The operation in flight after a CTRL write. With both trigger bits set two rules name one each, and which it is is a
draw (40_controller.md R110, R112; log 11). -/
def ctrlWriteBusy (v : Word) (s : State) : Busy :=
  match startsReset s.cfg v, startsTrans s.cfg v with
  | true, true => if peekBool s 0 then .resetting else capturedTrans s
  | true, false => .resetting
  | false, true => capturedTrans s
  | false, false => s.ctl.busy

/-- A write to CTRL (20_memory.md R61). -/
def ctrlWrite (v : Word) (s : State) : State :=
  consumeDraws (if startsReset s.cfg v && startsTrans s.cfg v then 1 else 0)
    { s with
      flags := ctrlWriteFlags v s
      ctl := { s.ctl with busy := ctrlWriteBusy v s, regs := regSet s.ctl.regs .ctrl v } }

/-- A write to PMCR (20_memory.md R61). -/
def pmcrWrite (v : Word) (s : State) : State :=
  { s with
    flags := pmcrWriteFlags v s
    ctl :=
      { s.ctl with
        busy := if startsSwitch s.cfg v then .pmode v.low24 else s.ctl.busy
        regs := regSet s.ctl.regs .pmcr v } }

/-- CTRL.SOFT_RST: start a controller soft reset (40_controller.md R110). -/
def execCtrlSoftRst (v : Word) (s : State) : Host.Outcome State Fault Refusal := .next (ctrlWrite v s)

/-- CTRL.START_TRANS: start the transaction that CMD, SADDR, DADDR and DATA describe (40_controller.md R112). -/
def execCtrlStartTrans (v : Word) (s : State) : Host.Outcome State Fault Refusal := .next (ctrlWrite v s)

/-- PMCR.START: start the mode-switch write with payload `v[23:0]` (40_controller.md R115). -/
def execPmcrStart (v : Word) (s : State) : Host.Outcome State Fault Refusal := .next (pmcrWrite v s)

end Sys2Proof.Machine
end

