-- ==== Sys2Proof/Machine/Dispatch.lean ====
section
/-! DEFINITION. One arm per instruction. -/

namespace Sys2Proof.Machine

def exec (i : Instr) (s : State) : Host.Outcome State Fault Refusal :=
  match i with
  | .rsbReset => Sys2Proof.Machine.execRsbReset s
  | .rsbSpeed src bus => Sys2Proof.Machine.execRsbSpeed src bus s
  | .rsbModesw payload => Sys2Proof.Machine.execRsbModesw payload s
  | .rsbSrta hw rt => Sys2Proof.Machine.execRsbSrta hw rt s
  | .rsbRd8 rt reg => Sys2Proof.Machine.execRsbRd8 rt reg s
  | .rsbWr8 rt reg val => Sys2Proof.Machine.execRsbWr8 rt reg val s
  | .rsbRmw rt reg clr set => Sys2Proof.Machine.execRsbRmw rt reg clr set s
  | .rsbInit => Sys2Proof.Machine.execRsbInit s
  | .cmdSrta => Sys2Proof.Machine.execCmdSrta s
  | .cmdRd8 => Sys2Proof.Machine.execCmdRd8 s
  | .cmdRd16 => Sys2Proof.Machine.execCmdRd16 s
  | .cmdRd32 => Sys2Proof.Machine.execCmdRd32 s
  | .cmdWr8 => Sys2Proof.Machine.execCmdWr8 s
  | .cmdWr16 => Sys2Proof.Machine.execCmdWr16 s
  | .cmdWr32 => Sys2Proof.Machine.execCmdWr32 s
  | .ctrlSoftRst v => Sys2Proof.Machine.execCtrlSoftRst v s
  | .ctrlStartTrans v => Sys2Proof.Machine.execCtrlStartTrans v s
  | .pmcrStart v => Sys2Proof.Machine.execPmcrStart v s

end Sys2Proof.Machine
end

