-- ==== Sys2Proof/Machine/Engine.lean ====
section
/-! DEFINITION. The steps of the three agents: S accepts a request or runs one micro-op (41_poll.md R145 to R149), C completes
the operation in flight (40_controller.md R111, R113, R114, R116), H presents a request or reads a response
(30_encoding.md R96). Each fetches an instruction where one stands for its level and runs it with `exec`. -/

namespace Sys2Proof.Machine

/-! ## Register accesses -/

/-- A write of `v` to register `r`: the instruction it triggers, or a plain store; a write to STAT has no meaning
(20_memory.md R61, 40_controller.md R127). -/
def writeReg (r : Reg) (v : Word) (s : State) : Host.Outcome State Fault Refusal :=
  match r with
  | .stat => .refused (.statWrite v)
  | .ctrl | .ccr | .inte | .daddr | .dlen | .data | .lcr | .pmcr | .cmd | .saddr =>
    match decodeTrigger s.cfg r v with
    | some i => exec i s
    | none => .next (plainWrite r v s)

/-- `MmioWrite(off, v)` (20_memory.md R61): refused at an offset where no register stands. -/
def mmioWrite (off v : Word) (s : State) : Host.Outcome State Fault Refusal :=
  match regAt s.cfg off with
  | some r => writeReg r v s
  | none => .refused (.badOffset off)

/-- `MmioRead(off)` and what S does with the word (20_memory.md R62). -/
def mmioRead (off : Word) (use : Word → State → State) (s : State) : Host.Outcome State Fault Refusal :=
  match regAt s.cfg off with
  | some r => .next (use (readValue r s) (afterRead r s))
  | none => .refused (.badOffset off)

/-! ## The micro-ops -/

/-- POLL, on the word read (41_poll.md R146). -/
def pollStep (mask v : Word) (s : State) : State :=
  if v &&& mask = 0 then advance { s with seq := { s.seq with tries := 0 } }
  else if s.seq.tries + 1 = s.cfg.pollMaxTries then respond .timeout 0 0 s
  else { s with seq := { s.seq with tries := s.seq.tries + 1 } }

/-- STATUS, on the word read (41_poll.md R149). -/
def statusStep (v : Word) (s : State) : State :=
  if v = s.cfg.statSuccess then advance s else respond .hwStatus v 0 s

/-- RDDATA, on the word read (41_poll.md R148). -/
def dataStep (v : Word) (s : State) : State := advance { s with seq := { s.seq with data := v.low8 } }

/-- One micro-op, one register access (41_poll.md R145). -/
def runMicroOp (m : MicroOp) (s : State) : Host.Outcome State Fault Refusal :=
  match m with
  | .wr off v => onNext (mmioWrite off v s) advance
  | .poll off mask => mmioRead off (pollStep mask) s
  | .status => mmioRead s.cfg.offStat statusStep s
  | .rddata => mmioRead s.cfg.offData dataStep s

/-! ## The agents -/

/-- S in IDLE: accept the request at the port, refuse a reserved one, wait where there is none (60_exceptions.md R221,
30_encoding.md R92). -/
def idleStep (s : State) : Host.Outcome State Fault Refusal :=
  match s.request with
  | none => .next s
  | some r =>
    match decodeRequest r with
    | some i => exec i s
    | none => .refused (.reservedRequest r.op)

/-- S in RUN: the micro-op at the position (41_poll.md R145). -/
def microStep (s : State) : Host.Outcome State Fault Refusal :=
  match s.seq.mprog[s.seq.mpc]? with
  | some m => runMicroOp m s
  | none => .fault .noMicroOp

/-- A step of S. The reset line comes before everything (70_reset_and_hazards.md R250; log 8). -/
def seqStep (s : State) : Host.Outcome State Fault Refusal :=
  if s.seqResetIn then .next (seqReset s)
  else
    match s.seq.phase with
    | .idle => idleStep s
    | .run => microStep s

/-- A step of C: the completion of the operation in flight; the command of a transaction is decoded from the captured CMD
value, and a reserved value completes as R114 says (40_controller.md R111, R113, R114, R116; 30_encoding.md R82). -/
def ctlStep (s : State) : Host.Outcome State Fault Refusal :=
  match s.ctl.busy with
  | .none => .next s
  | .resetting => .next (softResetDone s)
  | .pmode p => .next (modeSwitchDone p s)
  | .trans cmd _ _ _ =>
    match decodeCommand s.cfg cmd with
    | some i => exec i s
    | none => .next (unsupportedDone s)

/-- May H present a request: S is IDLE and the port is empty (60_exceptions.md R222)? -/
def portFree (s : State) : Bool := s.seq.phase == .idle && s.request.isNone

/-- H presents its next line; after a power action it is off (30_encoding.md R96, 45_client_boundary.md R213). -/
def hostPresent (s : State) : State :=
  match s.host.program with
  | [] => s
  | .request r :: rest => { s with request := some r, host := { s.host with program := rest, awaiting := true } }
  | .powerAction w :: rest =>
    { s with
      request := some (powerRequest s.cfg w), host := { s.host with program := rest, awaiting := true, status := .off } }

/-- The response registers, as H reads them (10_state.md R24). -/
def currentResponse (s : State) : Response :=
  { kind := s.seq.respKind, code := s.seq.respCode, data := s.seq.respData }

/-- H reads the response to the request it presented, once S has consumed the request and ended the operation: it keeps the
response unchanged (45_client_boundary.md R210), goes on after OK and stops otherwise (30_encoding.md R96). -/
def hostReadResponse (s : State) : State :=
  if s.seq.respValid then
    { s with
      host :=
        { s.host with
          awaiting := false, status := if s.seq.respKind = .ok then .running else .stopped
          received := s.host.received ++ [currentResponse s] } }
  else s

/-- A step of H. A host that is stopped or off, or that has nothing to do yet, leaves the machine as it is. -/
def hostStep (s : State) : State :=
  match s.host.status with
  | .stopped | .off => s
  | .running => if portFree s then (if s.host.awaiting then hostReadResponse s else hostPresent s) else s

/-- The step of the agent whose turn it is (00_scope.md R3). -/
def agentStep (s : State) : Host.Outcome State Fault Refusal :=
  match s.turn with
  | .sequencer => seqStep s
  | .controller => ctlStep s
  | .host => .next (hostStep s)

end Sys2Proof.Machine
end

