-- ==== Sys2Proof/Machine/Step.lean ====
section
/-! DEFINITION. One step of the machine: the step of the agent whose turn it is, then the turn passes. And the placing of an
instruction where the next step fetches it. -/

namespace Sys2Proof.Machine

/-- One step. An ill-formed configuration is refused (41_poll.md R143, 20_memory.md R64; log 25). -/
def step (s : State) : Host.Outcome State Fault Refusal :=
  if s.cfg.wf then onNext (agentStep s) passTurn else .refused .illFormedConfig

/-- The request port holds this request and S, in IDLE, moves next. -/
def State.withRequest (s : State) (r : Request) : State :=
  { s with request := some r, seqResetIn := false, turn := .sequencer, seq := { s.seq with phase := .idle } }

/-- A transaction with this CMD value is in flight, captured with SADDR, DADDR and DATA as they stand, and C moves next. -/
def State.withCommand (s : State) (w : Word) : State :=
  { s with
    turn := .controller
    ctl := { s.ctl with busy := .trans w s.ctl.regs.saddr s.ctl.regs.daddr s.ctl.regs.data } }

/-- S is about to write this word to the register at `off` and then to poll it, and moves next. -/
def State.withWrite (s : State) (off w : Word) : State :=
  { s with
    seqResetIn := false, turn := .sequencer
    seq := { s.seq with phase := .run, mprog := [.wr off w, .poll off w], mpc := 0 } }

/-- The state with a table word's instruction placed where the next step fetches it: the request port, the transaction in
flight, or the micro-op S is at (log 7, log 17). -/
def State.withFetchWord (s : State) (nbits w : Nat) : State :=
  match tablePort RsbConfig.default nbits w with
  | some .request =>
    match requestOfBytes (bytesOfNat 11 w) with
    | .ok r => s.withRequest r
    | .error _ => s
  | some .cmd => s.withCommand (BitVec.ofNat 32 w)
  | some .ctrl => s.withWrite s.cfg.offCtrl (BitVec.ofNat 32 w)
  | some .pmcr => s.withWrite s.cfg.offPmcr (BitVec.ofNat 32 w)
  | none => s

end Sys2Proof.Machine
end

