-- ==== Sys2Proof/Machine/Client.lean ====
section
/-! DEFINITION. The block's boundary as the host sees it: the encodings of a response (30_encoding.md R93, R94), the
assembler's lines (R96), the composites as host programs (R97), and the client's calls as host programs
(45_client_boundary.md R210 to R213). None of it adds state or behaviour to the machine. -/

namespace Sys2Proof.Machine

/-! ## Responses -/

/-- The two bits of a response kind (30_encoding.md R93). -/
def respKindBits (k : RespKind) : BitVec 2 :=
  match k with
  | .ok => 0b00
  | .timeout => 0b01
  | .hwStatus => 0b10
  | .invalidArgument => 0b11

/-- The integer form of a response (30_encoding.md R94). -/
def responseInt (c : RsbConfig) (kind : RespKind) (code : Word) (data : Byte) : Word :=
  match kind with
  | .ok => data.zext
  | .hwStatus => -code
  | .timeout => c.errnoTimeout
  | .invalidArgument => c.errnoInvalid

/-! ## Composites as host programs -/

/-- The host program an INIT has the effect of (30_encoding.md R97). -/
def initAsProgram (c : RsbConfig) : List Instr :=
  [.rsbReset, .rsbSpeed c.hsSrcFreq c.hsBusFreq, .rsbModesw c.modeSwitchPayload, .rsbSpeed c.hsSrcFreq c.opBusFreq,
    .rsbSrta c.pmicHwAddr c.pmicRtAddr]

/-- The host program an RMW that read the byte `b` has the effect of (30_encoding.md R97). -/
def rmwAsProgram (rt reg clr set b : Byte) : List Instr := [.rsbRd8 rt reg, .rsbWr8 rt reg (rmwNew b clr set)]

/-- The part a simple request runs. -/
def partOf (i : Instr) : Option Part :=
  match i with
  | .rsbReset => some .reset
  | .rsbSpeed src bus => some (.setSpeed src bus)
  | .rsbModesw payload => some (.modeSwitch payload)
  | .rsbSrta hw rt => some (.assignRta hw rt)
  | .rsbRd8 rt reg => some (.read8 rt reg)
  | .rsbWr8 rt reg val => some (.write8 rt reg val)
  | .rsbRmw _ _ _ _ | .rsbInit | .cmdSrta | .cmdRd8 | .cmdRd16 | .cmdRd32 | .cmdWr8 | .cmdWr16 | .cmdWr32
  | .ctrlSoftRst _ | .ctrlStartTrans _ | .pmcrStart _ => none

/-! ## The client's calls -/

/-- The client's own error (45_client_boundary.md R210, R211). -/
inductive ClientError where
  | outOfRange
deriving DecidableEq, Repr

/-- The client's calls (45_client_boundary.md R210). Power-off and reboot carry the access they make, since the register and
its bits are not in source (log 30). -/
inductive ClientCall where
  | read (a : Byte)
  | write (a v : Byte)
  | clearSetBits (a clr set : Byte)
  | readData (slot : Nat)
  | writeData (slot : Nat) (v : Byte)
  | dump
  | powerOff (w : PowerWrite)
  | reboot (w : PowerWrite)
deriving DecidableEq, Repr

/-- The PMIC register of a scratch slot (45_client_boundary.md R211). No width or wrap is given for a sum past 0xFF: DESIGN
CHOICE, it wraps modulo 256, unsafe (log 32). -/
def scratchReg (c : RsbConfig) (slot : Nat) : Byte := c.scratchBase + BitVec.ofNat 8 slot

/-- A scratch access: one request within bounds, no bus traffic beyond them (45_client_boundary.md R211). -/
def scratchAccess (c : RsbConfig) (slot : Nat) (r : Request) : Except ClientError (List HostAction) :=
  if slot < c.scratchSlots then .ok [.request r] else .error .outOfRange

/-- READ8s of `n` registers from `a` on (45_client_boundary.md R210, the dump). The order of the reads is not given: DESIGN
CHOICE, ascending from 0x00, unsafe (log 33). -/
def dumpRequests (c : RsbConfig) (a n : Nat) : List HostAction :=
  match n with
  | 0 => []
  | n + 1 => .request (read8Request c.pmicRtAddr (BitVec.ofNat 8 a)) :: dumpRequests c (a + 1) n

/-- The host program of a client call: reads, writes and clear-set-bits are one request each at the PMIC's runtime
address (45_client_boundary.md R210, R211, R213). -/
def clientProgram (c : RsbConfig) (call : ClientCall) : Except ClientError (List HostAction) :=
  match call with
  | .read a => .ok [.request (read8Request c.pmicRtAddr a)]
  | .write a v => .ok [.request (write8Request c.pmicRtAddr a v)]
  | .clearSetBits a clr set => .ok [.request (rmwRequest c.pmicRtAddr a clr set)]
  | .readData slot => scratchAccess c slot (read8Request c.pmicRtAddr (scratchReg c slot))
  | .writeData slot v => scratchAccess c slot (write8Request c.pmicRtAddr (scratchReg c slot) v)
  | .dump => .ok (dumpRequests c 0 c.devRegCount)
  | .powerOff w => .ok [.powerAction w]
  | .reboot w => .ok [.powerAction w]

/-! ## What a call returns -/

/-- What a client call returns: a byte, all the bytes of a dump, nothing, the block's response unchanged where it is an
error, or the client's own error (45_client_boundary.md R210). -/
inductive CallResult where
  | byte (b : Byte)
  | bytes (bs : List Byte)
  | unit
  | failed (r : Response)
  | clientError (e : ClientError)
deriving DecidableEq, Repr

/-- The result of a call that made one request, from the responses to it; none has come yet for the empty list. -/
def forwarded (onOk : Response → CallResult) (answers : List Response) : Option CallResult :=
  match answers with
  | [] => none
  | r :: _ => some (if r.kind = .ok then onOk r else .failed r)

/-- The result of a dump of `n` more registers, after the bytes `read`: the first error ends it (30_encoding.md R96). -/
def dumpResult (n : Nat) (read : List Byte) (answers : List Response) : Option CallResult :=
  match n, answers with
  | 0, _ => some (.bytes read)
  | _ + 1, [] => none
  | n + 1, r :: rest => if r.kind = .ok then dumpResult n (read ++ [r.data]) rest else some (.failed r)

/-- The result of a scratch access: the block's within bounds, the client's error beyond them (45_client_boundary.md R211). -/
def scratchResult (c : RsbConfig) (slot : Nat) (onOk : Response → CallResult) (answers : List Response) :
    Option CallResult :=
  if slot < c.scratchSlots then forwarded onOk answers else some (.clientError .outOfRange)

/-- What a client call returns, from the responses the host received to its program, the oldest first; `none` where it has
not returned (45_client_boundary.md R210, R211). Power-off and reboot never return (R213). -/
def callResult (c : RsbConfig) (call : ClientCall) (answers : List Response) : Option CallResult :=
  match call with
  | .read _ => forwarded (fun r => .byte r.data) answers
  | .write _ _ => forwarded (fun _ => .unit) answers
  | .clearSetBits _ _ _ => forwarded (fun _ => .unit) answers
  | .readData slot => scratchResult c slot (fun r => .byte r.data) answers
  | .writeData slot _ => scratchResult c slot (fun _ => .unit) answers
  | .dump => dumpResult c.devRegCount [] answers
  | .powerOff _ => none
  | .reboot _ => none

/-! ## The assembler -/

/-- The characters between tokens (log 29). -/
def isSeparator (ch : Char) : Bool := ch == ' ' || ch == ',' || ch == '\t'

/-- The tokens of a line; `cur` is the token being read. -/
def tokensFrom (cur : List Char) (line : List Char) : List (List Char) :=
  match line with
  | [] => if cur.isEmpty then [] else [cur]
  | ch :: rest =>
    if isSeparator ch then (if cur.isEmpty then tokensFrom [] rest else cur :: tokensFrom [] rest)
    else tokensFrom (cur ++ [ch]) rest

/-- The value of a digit, of a decimal or hexadecimal numeral. -/
def digitValue (ch : Char) : Option Nat :=
  if '0' ≤ ch ∧ ch ≤ '9' then some (ch.toNat - '0'.toNat)
  else if 'a' ≤ ch ∧ ch ≤ 'f' then some (ch.toNat - 'a'.toNat + 10)
  else if 'A' ≤ ch ∧ ch ≤ 'F' then some (ch.toNat - 'A'.toNat + 10)
  else none

/-- The digits of a numeral in a base, after the value read so far. -/
def digitsFrom (base acc : Nat) (chars : List Char) : Option Nat :=
  match chars with
  | [] => some acc
  | ch :: rest =>
    match digitValue ch with
    | some d => if d < base then digitsFrom base (acc * base + d) rest else none
    | none => none

/-- A numeral, decimal or 0x-hex (30_encoding.md R96). -/
def numeral (tok : List Char) : Option Nat :=
  match tok with
  | [] => none
  | ['0', 'x'] => none
  | '0' :: 'x' :: rest => digitsFrom 16 0 rest
  | ch :: rest => digitsFrom 10 0 (ch :: rest)

/-- The numerals of a line's operands. -/
def numerals (toks : List (List Char)) : Option (List Nat) :=
  match toks with
  | [] => some []
  | t :: rest =>
    match numeral t, numerals rest with
    | some n, some ns => some (n :: ns)
    | _, _ => none

/-- A request with operands that fit their widths, else nothing (log 29). -/
def requestIf (fits : Bool) (i : Instr) : Option Request := if fits then encodeRequest i else none

/-- The request a mnemonic (its characters after `rsb.`) and its operands stand for (30_encoding.md R96). -/
def assembleOp (name : List Char) (args : List Nat) : Option Request :=
  match name, args with
  | ['r', 'e', 's', 'e', 't'], [] => encodeRequest .rsbReset
  | ['s', 'p', 'e', 'e', 'd'], [src, bus] =>
    requestIf (src < 2 ^ 32 && bus < 2 ^ 32) (.rsbSpeed (.ofNat 32 src) (.ofNat 32 bus))
  | ['m', 'o', 'd', 'e', 's', 'w'], [p] => requestIf (p < 2 ^ 24) (.rsbModesw (.ofNat 24 p))
  | ['s', 'r', 't', 'a'], [hw, rt] => requestIf (hw < 2 ^ 12 && rt < 2 ^ 8) (.rsbSrta (.ofNat 12 hw) (.ofNat 8 rt))
  | ['r', 'd', '8'], [rt, reg] => requestIf (rt < 2 ^ 8 && reg < 2 ^ 8) (.rsbRd8 (.ofNat 8 rt) (.ofNat 8 reg))
  | ['w', 'r', '8'], [rt, reg, val] =>
    requestIf (rt < 2 ^ 8 && reg < 2 ^ 8 && val < 2 ^ 8) (.rsbWr8 (.ofNat 8 rt) (.ofNat 8 reg) (.ofNat 8 val))
  | ['r', 'm', 'w'], [rt, reg, clr, set] =>
    requestIf (rt < 2 ^ 8 && reg < 2 ^ 8 && clr < 2 ^ 8 && set < 2 ^ 8)
      (.rsbRmw (.ofNat 8 rt) (.ofNat 8 reg) (.ofNat 8 clr) (.ofNat 8 set))
  | ['i', 'n', 'i', 't'], [] => encodeRequest .rsbInit
  | _, _ => none

/-- Assemble the characters of one line (30_encoding.md R96). -/
def assembleLine (line : List Char) : Option Request :=
  match tokensFrom [] line with
  | ('r' :: 's' :: 'b' :: '.' :: name) :: args =>
    match numerals args with
    | some ns => assembleOp name ns
    | none => none
  | _ => none

/-- Assemble a host program, a list of lines (30_encoding.md R96). -/
def assembleProgram (lines : List (List Char)) : Option (List HostAction) :=
  match lines with
  | [] => some []
  | l :: rest =>
    match assembleLine l, assembleProgram rest with
    | some r, some acts => some (.request r :: acts)
    | _, _ => none

end Sys2Proof.Machine
end

