-- ==== Sys2Proof/Safety.lean ====
section
/-! DEFINITION. What a safe run is, in the terms the statements use: the invariant every step keeps, runs, the count of S's
steps, and the bounds of 41_poll.md R150. -/

namespace Sys2Proof.Machine

/-- `t` is the state after `n` steps from `s`, none of which faulted or was refused. -/
def Reaches (n : Nat) (s t : State) : Prop := Host.Core.run Sys2Proof.core n s = .next t

/-- How many of the first `n` steps from `s` are S's. -/
def seqTurns (n : Nat) (s : State) : Nat :=
  match n with
  | 0 => 0
  | n + 1 =>
    (if s.turn = .sequencer then 1 else 0) +
      match step s with
      | .next t => seqTurns n t
      | .fault _ | .refused _ => 0

/-- `n` steps of S in a row, C and H taking none. -/
def seqRun (n : Nat) (s : State) : Host.Outcome State Fault Refusal :=
  match n with
  | 0 => .next s
  | n + 1 =>
    match seqStep s with
    | .next t => seqRun n t
    | .fault e => .fault e
    | .refused e => .refused e

/-- The part S is running, from the operation, its stage and its latches (43_transactions.md R182, 44_init.md R200). -/
def currentPart (s : State) : Part :=
  match s.seq.op with
  | .reset => .reset
  | .setSpeed => .setSpeed s.seq.src s.seq.bus
  | .modeSwitch => .modeSwitch s.seq.payload
  | .assignRta => .assignRta s.seq.hw s.seq.rt
  | .read8 => .read8 s.seq.rt s.seq.reg
  | .write8 => .write8 s.seq.rt s.seq.reg s.seq.val
  | .rmw =>
    if s.seq.stage = 0 then .read8 s.seq.rt s.seq.reg
    else .write8 s.seq.rt s.seq.reg (rmwNew s.seq.old s.seq.clr s.seq.set)
  | .init => initPart s.cfg s.seq.stage

/-- The last stage of an operation (10_state.md R25). -/
def lastStage (op : ReqOp) : Nat :=
  match op with
  | .rmw => 1
  | .init => initLastStage
  | .reset | .setSpeed | .modeSwitch | .assignRta | .read8 | .write8 => 0

/-- The micro-op at the position. -/
def currentOp (s : State) : Option MicroOp := s.seq.mprog[s.seq.mpc]?

/-- The micro-op that waits for the operation in flight: the POLL of its trigger bit. -/
def waitsFor (c : RsbConfig) (b : Busy) : Option MicroOp :=
  match b with
  | .none => none
  | .resetting => some (.poll c.offCtrl c.ctrlSoftRst)
  | .trans _ _ _ _ => some (.poll c.offCtrl c.ctrlStartTrans)
  | .pmode _ => some (.poll c.offPmcr c.pmcrStart)

/-- The invariant of every step: the configuration is well formed, the device register space canonical, S's position,
counter and stage in their ranges (10_state.md R22, R23, R25), in RUN the micro-program that of the current part with no
response valid, and a valid response of the form of 10_state.md R24. -/
structure SysInv (s : State) : Prop where
  cfgWf : s.cfg.wf = true
  memWf : Memory.wf s.dev.regs = true
  position : s.seq.mpc ≤ s.seq.mprog.length
  running : s.seq.phase = .run →
    s.seq.mprog = prog s.cfg (currentPart s) ∧ s.seq.mpc < s.seq.mprog.length ∧ partOk (currentPart s) = true ∧
      s.seq.respValid = false
  triesBelow : s.seq.tries < s.cfg.pollMaxTries
  triesPolling : s.seq.tries ≠ 0 → s.seq.phase = .run ∧ ∃ off mask, currentOp s = some (.poll off mask)
  stageBound : s.seq.stage ≤ lastStage s.seq.op
  codeZero : s.seq.respValid = true → s.seq.respKind ≠ .hwStatus → s.seq.respCode = 0
  codeFailure : s.seq.respValid = true → s.seq.respKind = .hwStatus → s.seq.respCode ≠ s.cfg.statSuccess
  dataZero : s.seq.respValid = true → ¬(s.seq.op = .read8 ∧ s.seq.respKind = .ok) → s.seq.respData = 0

/-- No reserved request stands at the port (60_exceptions.md R222, duty 2). -/
def PortLegal (s : State) : Prop := ∀ r, s.request = some r → r.op.toNat < 8

/-- S is in IDLE with nothing in flight at C, so a request starts from scratch. -/
def Quiet (s : State) : Prop := s.seq.phase = .idle ∧ s.ctl.busy = .none ∧ s.seqResetIn = false

/-- The last operation that ended timed out, and its response is still there. -/
def TimedOut (s : State) : Prop := s.seq.respValid = true ∧ s.seq.respKind = .timeout

/-- The most steps of S an operation takes, its acceptance included (41_poll.md R150). -/
def opStepsMax (T : Nat) (op : ReqOp) : Nat :=
  match op with
  | .reset => 2 + T
  | .setSpeed => 2
  | .modeSwitch => 2 + T
  | .assignRta => 5 + T
  | .read8 => 7 + T
  | .write8 => 7 + T
  | .rmw => 13 + 2 * T
  | .init => 9 + 3 * T

/-- An operation has just been accepted and is at its first micro-op. -/
def JustAccepted (s : State) : Prop :=
  s.seq.phase = .run ∧ s.seq.mpc = 0 ∧ s.seq.tries = 0 ∧ s.seq.stage = 0

/-- The agents `as` take the coming steps, in this order. -/
def Planned (as : List Agent) (s : State) : Prop := ∃ rest, s.turn :: s.plan = as ++ rest

/-- Everything but S, the request port and the model's draws and turns is as before. -/
structure OutsideSame (s t : State) : Prop where
  cfg : t.cfg = s.cfg
  ctl : t.ctl = s.ctl
  dev : t.dev = s.dev
  flags : t.flags = s.flags
  platformReady : t.platformReady = s.platformReady
  seqResetIn : t.seqResetIn = s.seqResetIn
  host : t.host = s.host

/-- The operation `op` has been accepted and the micro-program `mprog` loaded (60_exceptions.md R221): the request is
consumed and the response no longer valid; the response registers, the data latch and RMW's old byte are as before. -/
structure Started (op : ReqOp) (mprog : List MicroOp) (s t : State) : Prop where
  phase : t.seq.phase = .run
  op : t.seq.op = op
  mprog : t.seq.mprog = mprog
  mpc : t.seq.mpc = 0
  tries : t.seq.tries = 0
  stage : t.seq.stage = 0
  respValid : t.seq.respValid = false
  respKind : t.seq.respKind = s.seq.respKind
  respCode : t.seq.respCode = s.seq.respCode
  respData : t.seq.respData = s.seq.respData
  data : t.seq.data = s.seq.data
  old : t.seq.old = s.seq.old
  request : t.request = none

/-- S is in IDLE with this valid response (10_state.md R24). -/
structure Responded (kind : RespKind) (code : Word) (data : Byte) (t : State) : Prop where
  phase : t.seq.phase = .idle
  valid : t.seq.respValid = true
  kind : t.seq.respKind = kind
  code : t.seq.respCode = code
  data : t.seq.respData = data
  tries : t.seq.tries = 0

/-- A completion of C: nothing in flight any more; S, the flags, the ports, the host and the parameters as before, and
whether the controller was reset as before. -/
structure CompletionFrame (s t : State) : Prop where
  busy : t.ctl.busy = .none
  wasReset : t.ctl.wasReset = s.ctl.wasReset
  cfg : t.cfg = s.cfg
  seq : t.seq = s.seq
  flags : t.flags = s.flags
  platformReady : t.platformReady = s.platformReady
  request : t.request = s.request
  seqResetIn : t.seqResetIn = s.seqResetIn
  host : t.host = s.host

/-- S is about to run a micro-op: its turn, in RUN, the reset line off, the configuration well formed. -/
structure AtMicroOp (m : MicroOp) (s : State) : Prop where
  cfgWf : s.cfg.wf = true
  noReset : s.seqResetIn = false
  phase : s.seq.phase = .run
  current : currentOp s = some m

/-- `tok` is a numeral for `n` (30_encoding.md R96): its decimal digits, or `0x` and its hexadecimal digits with letters of
either case, in both after any zeros. The forms are the model's choice (log 29). -/
def IsNumeral (tok : List Char) (n : Nat) : Prop :=
  (∃ k, tok = List.replicate k '0' ++ Nat.toDigits 10 n) ∨
    ∃ k digits, tok = '0' :: 'x' :: (List.replicate k '0' ++ digits) ∧ digits.map Char.toLower = Nat.toDigits 16 n

/-- Operands as a line of 30_encoding.md R96 writes them: a comma and a blank between two. -/
def operandText (toks : List (List Char)) : List Char :=
  match toks with
  | [] => []
  | [t] => t
  | t :: rest => t ++ ',' :: ' ' :: operandText rest

/-- A line of 30_encoding.md R96: `rsb.`, the operation's name, some blanks, the operands. -/
def lineText (name : List Char) (blanks : Nat) (toks : List (List Char)) : List Char :=
  ('r' :: 's' :: 'b' :: '.' :: name) ++ (List.replicate blanks ' ' ++ operandText toks)

/-- S is about to accept this request. -/
structure AtRequest (r : Request) (s : State) : Prop where
  cfgWf : s.cfg.wf = true
  noReset : s.seqResetIn = false
  phase : s.seq.phase = .idle
  request : s.request = some r

end Sys2Proof.Machine
end

