-- ==== Sys2Proof/Certificates/Slice0/Obligations.lean ====
section
/-! DEFINITION. The statements for the provers. Each docstring names the rule of spec/ the statement formalises. -/

open Sys2Proof Sys2Proof.Machine

/-! ## Encoding -/

/-- 30_encoding.md R80, R89, R91: decoding what the encoder writes gives the instruction back, for every well-formed
instruction with every operand, under every well-formed configuration. -/
def Obligations.DecodeEncodeAgree : Prop :=
  ∀ (c : RsbConfig) (i : Instr), c.wf = true → i.wellFormed c = true →
    decode c (encode c i).port (encode c i).bytes = .ok i

/-- 95_test_vectors.md V5, V6; 30_encoding.md R80: the values of these tables decode to the instructions they stand for. The
bytes they are laid out in (11 for a request, least significant first in every word) are the model's own choice (log 17). -/
def Obligations.WrittenWordsDecode : Prop :=
  decode RsbConfig.default .request [0x04, 0, 0, 0, 0, 0, 0, 0, 0, 0x2D, 0x21] = .ok (.rsbRd8 0x2D#8 0x21#8) ∧
    decode RsbConfig.default .request [0x06, 0x0F, 0, 0, 0, 0x03, 0, 0, 0, 0x2D, 0x21]
      = .ok (.rsbRmw 0x2D#8 0x21#8 0x0F#8 0x03#8) ∧
    decode RsbConfig.default .cmd [0xE8, 0, 0, 0] = .ok .cmdSrta ∧
    decode RsbConfig.default .ctrl [0x80, 0, 0, 0] = .ok (.ctrlStartTrans 0x80#32) ∧
    decode RsbConfig.default .pmcr [0x00, 0x3E, 0x7C, 0x80] = .ok (.pmcrStart 0x807C3E00#32)

/-- 30_encoding.md R80, R82: a CMD value decodes exactly when it is one of the seven opcodes with bits 31..8 zero. -/
def Obligations.CommandDecodesExactlySeven : Prop :=
  ∀ (c : RsbConfig) (w : Word), (decodeCommand c w).isSome = true ↔ w.toNat / 256 = 0 ∧ w.low8 ∈ c.opcodes

/-- 30_encoding.md R92: a request with op 0x8 to 0xF is refused by name, and no other request is. -/
def Obligations.ReservedRequestRefused : Prop :=
  ∀ (s : State) (r : Request), s.turn = .sequencer → AtRequest r s →
    (8 ≤ r.op.toNat → step s = .refused (.reservedRequest r.op)) ∧
      (r.op.toNat < 8 → ∃ t, step s = .next t ∧ t.request = none)

/-! ## A step runs the decoded instruction -/

/-- 60_exceptions.md R221, 20_memory.md R61, 40_controller.md R113: S's step at a request is `exec` of the decoded request;
S's step at a triggering write is `exec` of the decoded trigger, then the micro-program's advance; C's step with a
transaction in flight is `exec` of the decoded command. After each the turn passes. -/
def Obligations.StepRunsDecodedInstruction : Prop :=
  (∀ (s : State) (r : Request) (i : Instr), s.turn = .sequencer → AtRequest r s → decodeRequest r = some i →
    step s = onNext (exec i s) passTurn) ∧
  (∀ (s : State) (off v : Word) (r : Reg) (i : Instr), s.turn = .sequencer → AtMicroOp (.wr off v) s →
    regAt s.cfg off = some r → decodeTrigger s.cfg r v = some i →
    step s = onNext (onNext (exec i s) advance) passTurn) ∧
  (∀ (s : State) (cmd sa da d : Word) (i : Instr), s.cfg.wf = true → s.turn = .controller →
    s.ctl.busy = .trans cmd sa da d → decodeCommand s.cfg cmd = some i →
    step s = onNext (exec i s) passTurn)

/-! ## Requests -/

/-- 42_bus_controller_ops.md R160, 44_init.md R200, 60_exceptions.md R221: RESET and INIT are accepted in IDLE, each at the
micro-program of a soft reset, and change nothing outside S. -/
def Obligations.ResetAndInitAccepted : Prop :=
  ∀ s : State, s.seq.phase = .idle →
    (∃ t, exec .rsbReset s = .next t ∧ OutsideSame s t ∧
      Started .reset [.wr s.cfg.offCtrl s.cfg.ctrlSoftRst, .poll s.cfg.offCtrl s.cfg.ctrlSoftRst] s t) ∧
    (∃ t, exec .rsbInit s = .next t ∧ OutsideSame s t ∧
      Started .init [.wr s.cfg.offCtrl s.cfg.ctrlSoftRst, .poll s.cfg.offCtrl s.cfg.ctrlSoftRst] s t)

/-- 42_bus_controller_ops.md R162, R163; 30_encoding.md R84, R85: MODE_SWITCH and ASSIGN_RTA are accepted in IDLE, latch
their operands, and carry the PMCR and SADDR values of the rules. -/
def Obligations.HandshakeRequestsAccepted : Prop :=
  (∀ (s : State) (p : Payload), s.seq.phase = .idle →
    ∃ t, exec (.rsbModesw p) s = .next t ∧ OutsideSame s t ∧ t.seq.payload = p ∧
      Started .modeSwitch
        [.wr s.cfg.offPmcr (s.cfg.pmcrStart ||| p.zeroExtend 32), .poll s.cfg.offPmcr s.cfg.pmcrStart] s t) ∧
  (∀ (s : State) (hw : HwAddr) (rt : Byte), s.seq.phase = .idle →
    ∃ t, exec (.rsbSrta hw rt) s = .next t ∧ OutsideSame s t ∧ t.seq.hw = hw ∧ t.seq.rt = rt ∧
      Started .assignRta
        [.wr s.cfg.offSaddr ((rt.zeroExtend 32 <<< s.cfg.saddrRtaShift) ||| hw.zeroExtend 32),
          .wr s.cfg.offCmd (s.cfg.cmdSrta.zeroExtend 32), .wr s.cfg.offCtrl s.cfg.ctrlStartTrans,
          .poll s.cfg.offCtrl s.cfg.ctrlStartTrans, .status] s t) ∧
  saddrSrta RsbConfig.default 0x3A3#12 0x2D#8 = 0x002D03A3#32 ∧ pmcrValue RsbConfig.default 0x7C3E00#24 = 0x807C3E00#32

/-- 43_transactions.md R180 to R182; 30_encoding.md R86 to R88: READ8, WRITE8 and RMW are accepted in IDLE, latch their
operands, and carry the CMD, SADDR, DADDR and DATA values of the rules; RMW starts with its read part. -/
def Obligations.TransactionRequestsAccepted : Prop :=
  ∀ (s : State) (rt reg val clr set : Byte), s.seq.phase = .idle →
    (∃ t, exec (.rsbRd8 rt reg) s = .next t ∧ OutsideSame s t ∧ t.seq.rt = rt ∧ t.seq.reg = reg ∧
      Started .read8
        [.wr s.cfg.offCmd (s.cfg.cmdRd8.zeroExtend 32), .wr s.cfg.offSaddr (rt.zeroExtend 32 <<< s.cfg.saddrRtaShift),
          .wr s.cfg.offDaddr (reg.zeroExtend 32), .wr s.cfg.offCtrl s.cfg.ctrlStartTrans,
          .poll s.cfg.offCtrl s.cfg.ctrlStartTrans, .status, .rddata] s t) ∧
    (∃ t, exec (.rsbWr8 rt reg val) s = .next t ∧ OutsideSame s t ∧ t.seq.rt = rt ∧ t.seq.reg = reg ∧ t.seq.val = val ∧
      Started .write8
        [.wr s.cfg.offCmd (s.cfg.cmdWr8.zeroExtend 32), .wr s.cfg.offSaddr (rt.zeroExtend 32 <<< s.cfg.saddrRtaShift),
          .wr s.cfg.offDaddr (reg.zeroExtend 32), .wr s.cfg.offData (val.zeroExtend 32),
          .wr s.cfg.offCtrl s.cfg.ctrlStartTrans, .poll s.cfg.offCtrl s.cfg.ctrlStartTrans, .status] s t) ∧
    (∃ t, exec (.rsbRmw rt reg clr set) s = .next t ∧ OutsideSame s t ∧ t.seq.rt = rt ∧ t.seq.reg = reg ∧
      t.seq.clr = clr ∧ t.seq.set = set ∧
      Started .rmw
        [.wr s.cfg.offCmd (s.cfg.cmdRd8.zeroExtend 32), .wr s.cfg.offSaddr (rt.zeroExtend 32 <<< s.cfg.saddrRtaShift),
          .wr s.cfg.offDaddr (reg.zeroExtend 32), .wr s.cfg.offCtrl s.cfg.ctrlStartTrans,
          .poll s.cfg.offCtrl s.cfg.ctrlStartTrans, .status, .rddata] s t)

/-- 42_bus_controller_ops.md R161, 30_encoding.md R83: a valid SET_SPEED is accepted with one CCR write of
`(src/bus/2 - 1) | delay`; the subtraction does not wrap and the delay bit is set in the value. -/
def Obligations.ValidSpeedAccepted : Prop :=
  ∀ (s : State) (src bus : Word), s.seq.phase = .idle → bus ≠ 0 → 2 ≤ src.toNat / bus.toNat →
    ∃ (t : State) (v : Word), exec (.rsbSpeed src bus) s = .next t ∧ OutsideSame s t ∧ t.seq.src = src ∧ t.seq.bus = bus ∧
      Started .setSpeed [.wr s.cfg.offCcr (v ||| s.cfg.ccrDelayBit)] s t ∧
      v.toNat + 1 = src.toNat / bus.toNat / 2 ∧ (v ||| s.cfg.ccrDelayBit) &&& s.cfg.ccrDelayBit = s.cfg.ccrDelayBit

/-- 42_bus_controller_ops.md R161: a SET_SPEED with `bus = 0` or a divisor below 2 is answered INVALID_ARGUMENT in its
acceptance step, with no register access. -/
def Obligations.InvalidSpeedAnswered : Prop :=
  ∀ (s : State) (src bus : Word), s.seq.phase = .idle → (bus = 0 ∨ src.toNat / bus.toNat < 2) →
    ∃ t, exec (.rsbSpeed src bus) s = .next t ∧ OutsideSame s t ∧ t.request = none ∧ t.seq.op = .setSpeed ∧
      Responded .invalidArgument 0 0 t

/-- 60_exceptions.md R221: a request presented while an operation runs is not accepted; it waits at the port. -/
def Obligations.RunningOperationKeepsRequestWaiting : Prop :=
  ∀ s t : State, step s = .next t → s.seq.phase = .run → t.request = s.request

/-! ## Triggers -/

/-- 40_controller.md R110: a CTRL word with the soft-reset bit and not the start bit puts a soft reset in flight. -/
def Obligations.SoftResetTriggerStarts : Prop :=
  ∀ (s : State) (v : Word), v &&& s.cfg.ctrlSoftRst ≠ 0 → v &&& s.cfg.ctrlStartTrans = 0 →
    exec (.ctrlSoftRst v) s = .next
      { s with
        flags :=
          { s.flags with
            notReady := s.flags.notReady || !s.platformReady
            overlap := s.flags.overlap || decide (s.ctl.busy ≠ .none) }
        ctl := { s.ctl with busy := .resetting, regs := { s.ctl.regs with ctrl := v } } }

/-- 40_controller.md R112: a CTRL word with the start bit and not the soft-reset bit captures the four registers, and
flags a transaction before the first reset or with an unsupported command. -/
def Obligations.StartTriggerCapturesTransaction : Prop :=
  ∀ (s : State) (v : Word), v &&& s.cfg.ctrlStartTrans ≠ 0 → v &&& s.cfg.ctrlSoftRst = 0 →
    exec (.ctrlStartTrans v) s = .next
      { s with
        flags :=
          { notReady := s.flags.notReady || !s.platformReady
            notReset := s.flags.notReset || !s.ctl.wasReset
            overlap := s.flags.overlap || decide (s.ctl.busy ≠ .none)
            badCmd := s.flags.badCmd ||
              decide (s.ctl.regs.cmd ∉
                [s.cfg.cmdSrta.zeroExtend 32, s.cfg.cmdRd8.zeroExtend 32, s.cfg.cmdWr8.zeroExtend 32]) }
        ctl :=
          { s.ctl with
            busy := .trans s.ctl.regs.cmd s.ctl.regs.saddr s.ctl.regs.daddr s.ctl.regs.data
            regs := { s.ctl.regs with ctrl := v } } }

/-- 40_controller.md R110, R112, 70_reset_and_hazards.md R254: a CTRL word with both trigger bits sets F.overlap; one of
the two operations is then in flight. Which one the model leaves to a draw, and both triggers do the same (log 11). -/
def Obligations.BothTriggerBitsOverlap : Prop :=
  ∀ (s : State) (v : Word), v &&& s.cfg.ctrlStartTrans ≠ 0 → v &&& s.cfg.ctrlSoftRst ≠ 0 →
    ∃ t, exec (.ctrlSoftRst v) s = .next t ∧ exec (.ctrlStartTrans v) s = .next t ∧ t.flags.overlap = true ∧
      t.seq = s.seq ∧ t.dev = s.dev ∧
      t.ctl.regs = { s.ctl.regs with ctrl := v } ∧ t.ctl.wasReset = s.ctl.wasReset ∧
      (t.ctl.busy = .resetting ∨
        t.ctl.busy = .trans s.ctl.regs.cmd s.ctl.regs.saddr s.ctl.regs.daddr s.ctl.regs.data)

/-- 40_controller.md R115: a PMCR word with the start bit puts a mode switch with payload `v[23:0]` in flight. -/
def Obligations.ModeSwitchTriggerStarts : Prop :=
  ∀ (s : State) (v : Word), v &&& s.cfg.pmcrStart ≠ 0 →
    exec (.pmcrStart v) s = .next
      { s with
        flags :=
          { s.flags with
            notReady := s.flags.notReady || !s.platformReady
            notReset := s.flags.notReset || !s.ctl.wasReset
            overlap := s.flags.overlap || decide (s.ctl.busy ≠ .none) }
        ctl := { s.ctl with busy := .pmode (v.extractLsb' 0 24), regs := { s.ctl.regs with pmcr := v } } }

/-- 10_state.md R28, R32: with the platform ready, CTRL reads its two trigger bits from the operation in flight and every
other bit from a draw; PMCR reads its start bit from the operation in flight and every other bit as stored. -/
def Obligations.TriggerBitsReadOperationInFlight : Prop :=
  ∀ s : State, s.cfg.wf = true → s.platformReady = true →
    (s.ctl.busy = .resetting → readValue .ctrl s &&& s.cfg.ctrlSoftRst = s.cfg.ctrlSoftRst) ∧
    (s.ctl.busy ≠ .resetting → readValue .ctrl s &&& s.cfg.ctrlSoftRst = 0) ∧
    ((∃ cmd sa da d, s.ctl.busy = .trans cmd sa da d) →
      readValue .ctrl s &&& s.cfg.ctrlStartTrans = s.cfg.ctrlStartTrans) ∧
    (¬(∃ cmd sa da d, s.ctl.busy = .trans cmd sa da d) → readValue .ctrl s &&& s.cfg.ctrlStartTrans = 0) ∧
    ((∃ p, s.ctl.busy = .pmode p) → readValue .pmcr s &&& s.cfg.pmcrStart = s.cfg.pmcrStart) ∧
    (¬(∃ p, s.ctl.busy = .pmode p) → readValue .pmcr s &&& s.cfg.pmcrStart = 0) ∧
    readValue .ctrl s &&& ~~~(s.cfg.ctrlSoftRst ||| s.cfg.ctrlStartTrans)
      = peekDraw s 0 &&& ~~~(s.cfg.ctrlSoftRst ||| s.cfg.ctrlStartTrans) ∧
    readValue .pmcr s &&& ~~~s.cfg.pmcrStart = s.ctl.regs.pmcr &&& ~~~s.cfg.pmcrStart

/-! ## Completions -/

/-- 40_controller.md R111: the completion of a soft reset ends it and makes every register a draw, the device untouched; the
two CTRL trigger bits and PMCR's start bit are then clear for a ready platform. -/
def Obligations.SoftResetCompletionDrawsRegisters : Prop :=
  ∀ s : State, s.cfg.wf = true → s.turn = .controller → s.ctl.busy = .resetting →
    ∃ t, step s = .next t ∧ t.ctl.busy = .none ∧ t.ctl.wasReset = true ∧ t.dev = s.dev ∧ t.seq = s.seq ∧ t.flags = s.flags ∧
      t.request = s.request ∧
      (∀ k r, Reg.all[k]? = some r → regGet t.ctl.regs r = peekDraw s k) ∧
      (s.platformReady = true → readValue .ctrl t &&& s.cfg.ctrlSoftRst = 0 ∧
        readValue .ctrl t &&& s.cfg.ctrlStartTrans = 0 ∧ readValue .pmcr t &&& s.cfg.pmcrStart = 0)

/-- 10_state.md R39: `C.was_reset` is false at launch and becomes true exactly when a soft reset completes. -/
def Obligations.WasResetSetOnlyBySoftReset : Prop :=
  State.reset.ctl.wasReset = false ∧
    ∀ s t : State, step s = .next t →
      (t.ctl.wasReset = true ↔ s.ctl.wasReset = true ∨ (s.turn = .controller ∧ s.ctl.busy = .resetting))

/-- 40_controller.md R116: the completion of a mode switch. In I2C mode the write is received or not; received, 0x7C to
register 0x3E switches the mode and clears the runtime address, and anything else is a device write of the payload's byte,
every other byte unchanged. In RSB mode nothing happens on the device. STAT and every other register are unchanged. -/
def Obligations.ModeSwitchCompletionCases : Prop :=
  ∀ (s : State) (p : Payload), s.cfg.wf = true → s.turn = .controller → s.ctl.busy = .pmode p →
    Memory.wf s.dev.regs = true →
    ∃ t, step s = .next t ∧ CompletionFrame s t ∧ t.ctl.regs = s.ctl.regs ∧
      (s.dev.mode = .rsb → t.dev = s.dev) ∧
      (s.dev.mode = .i2c → (peekDraw s 0).getLsbD 0 = false → t.dev = s.dev) ∧
      (s.dev.mode = .i2c → (peekDraw s 0).getLsbD 0 = true → p.extractLsb' 8 16 = 0x7C3E#16 →
        t.dev = { s.dev with mode := .rsb, rt := none }) ∧
      (s.dev.mode = .i2c → (peekDraw s 0).getLsbD 0 = true → p.extractLsb' 8 16 ≠ 0x7C3E#16 →
        t.dev.mode = s.dev.mode ∧ t.dev.hw = s.dev.hw ∧ t.dev.rt = s.dev.rt ∧
        (isVolatile s.cfg (p.extractLsb' 8 8) = false →
          memRead t.dev.regs (p.extractLsb' 8 8).toNat = p.extractLsb' 16 8) ∧
        ∀ a, a ≠ (p.extractLsb' 8 8).toNat → memRead t.dev.regs a = memRead s.dev.regs a)

/-- 40_controller.md R113, R117, R124: an SRTA reports success only with a match, and then the device has taken the runtime
address; with a match it may report success; with any other status, matched or not, it may have taken the address or not.
Nothing else of the device changes, and DATA and every register but STAT are unchanged. That the hardware-address field is
the bits below the runtime-address field, for every shift, is the model's reading (log 15), and so is that an effect without
a match is the whole effect (log 12). -/
def Obligations.SrtaAssignsRuntimeAddress : Prop :=
  ∀ (s : State) (cmd sa da d : Word), s.ctl.busy = .trans cmd sa da d →
    (∃ t, exec .cmdSrta s = .next t ∧ CompletionFrame s t ∧
      t.ctl.regs = { s.ctl.regs with stat := t.ctl.regs.stat } ∧
      (t.ctl.regs.stat = s.cfg.statSuccess → matchesHw s sa = true ∧ t.dev.rt = some (saddrRta s.cfg sa)) ∧
      (t.dev = s.dev ∨ t.dev = { s.dev with rt := some (saddrRta s.cfg sa) }) ∧
      (matchesHw s sa = true ↔
        s.dev.mode = .rsb ∧ sa &&& (1#32 <<< s.cfg.saddrRtaShift) - 1#32 = s.dev.hw.zeroExtend 32)) ∧
    (matchesHw s sa = true →
      ∃ script t, exec .cmdSrta { s with script := script } = .next t ∧ t.ctl.regs.stat = s.cfg.statSuccess) ∧
    ∀ st, st ≠ s.cfg.statSuccess →
      (∃ script t, exec .cmdSrta { s with script := script } = .next t ∧ t.ctl.regs.stat = st ∧
        t.dev = { s.dev with rt := some (saddrRta s.cfg sa) }) ∧
      (∃ script t, exec .cmdSrta { s with script := script } = .next t ∧ t.ctl.regs.stat = st ∧ t.dev = s.dev)

/-- 40_controller.md R113, R118, R124, 20_memory.md R66: a RD8 that reports success addressed the device in RSB mode at its
runtime address and had its effect. With the effect, also on failure, DATA's low byte is a plain register's byte and a draw
for a volatile register, DATA's other bits are a draw, and the read-clear register is cleared; without it DATA is a draw and
the device as it was. Every register but STAT and DATA and every device byte but a read read-clear one are unchanged. Any
failure status is possible with the effect and, with any word in DATA, without it. That a failure has its effect also where
no device was addressed is the model's reading (log 12); that clearing leaves 0x00 is the value R66 shows and says no model
relies on (any value, U15), the model's choice (log 31). -/
def Obligations.Rd8DeliversDeviceByte : Prop :=
  ∀ (s : State) (cmd sa da d : Word), s.ctl.busy = .trans cmd sa da d → Memory.wf s.dev.regs = true →
    (∃ t, exec .cmdRd8 s = .next t ∧ CompletionFrame s t ∧
      t.ctl.regs = { s.ctl.regs with stat := t.ctl.regs.stat, data := t.ctl.regs.data } ∧
      t.dev.mode = s.dev.mode ∧ t.dev.hw = s.dev.hw ∧ t.dev.rt = s.dev.rt ∧
      (t.ctl.regs.stat = s.cfg.statSuccess →
        s.dev.mode = .rsb ∧ s.dev.rt = some (saddrRta s.cfg sa) ∧ hasEffect s (matchesRt s sa) = true) ∧
      (hasEffect s (matchesRt s sa) = true →
        (isVolatile s.cfg da.low8 = false → t.ctl.regs.data.low8 = memRead s.dev.regs da.low8.toNat) ∧
        (isVolatile s.cfg da.low8 = true → t.ctl.regs.data.low8 = (peekDraw s 3).low8) ∧
        t.ctl.regs.data.extractLsb' 8 24 = (peekDraw s 2).extractLsb' 8 24 ∧
        (da.low8 = s.cfg.devReadClear → memRead t.dev.regs da.low8.toNat = 0)) ∧
      (∀ a, ¬(a = da.low8.toNat ∧ da.low8 = s.cfg.devReadClear) → memRead t.dev.regs a = memRead s.dev.regs a) ∧
      (hasEffect s (matchesRt s sa) = false → t.dev = s.dev ∧ t.ctl.regs.data = peekDraw s 2)) ∧
    ∀ st w, st ≠ s.cfg.statSuccess →
      (∃ script t, hasEffect { s with script := script } (matchesRt s sa) = true ∧
        exec .cmdRd8 { s with script := script } = .next t ∧ t.ctl.regs.stat = st ∧
        (isVolatile s.cfg da.low8 = false → t.ctl.regs.data.low8 = memRead s.dev.regs da.low8.toNat) ∧
        (da.low8 = s.cfg.devReadClear → memRead t.dev.regs da.low8.toNat = 0)) ∧
      (∃ script t, hasEffect { s with script := script } (matchesRt s sa) = false ∧
        exec .cmdRd8 { s with script := script } = .next t ∧ t.ctl.regs.stat = st ∧
        t.ctl.regs.data = w ∧ t.dev = s.dev)

/-- 40_controller.md R113, R119, R124, 20_memory.md R66: a WR8 that reports success addressed the device in RSB mode at its
runtime address and had its effect. With the effect, also on failure, a plain register holds the byte and a volatile one a
draw; without it the device is as it was. Every register but STAT is unchanged, and every device byte but the one at
`da[7:0]`. -/
def Obligations.Wr8StoresByte : Prop :=
  ∀ (s : State) (cmd sa da d : Word), s.ctl.busy = .trans cmd sa da d → Memory.wf s.dev.regs = true →
    ∃ t, exec .cmdWr8 s = .next t ∧ CompletionFrame s t ∧
      t.ctl.regs = { s.ctl.regs with stat := t.ctl.regs.stat } ∧
      t.dev.mode = s.dev.mode ∧ t.dev.hw = s.dev.hw ∧ t.dev.rt = s.dev.rt ∧
      (t.ctl.regs.stat = s.cfg.statSuccess →
        s.dev.mode = .rsb ∧ s.dev.rt = some (saddrRta s.cfg sa) ∧ hasEffect s (matchesRt s sa) = true) ∧
      (hasEffect s (matchesRt s sa) = true →
        (isVolatile s.cfg da.low8 = false → memRead t.dev.regs da.low8.toNat = d.low8) ∧
        (isVolatile s.cfg da.low8 = true → memRead t.dev.regs da.low8.toNat = (peekDraw s 2).low8)) ∧
      (∀ a, a ≠ da.low8.toNat → memRead t.dev.regs a = memRead s.dev.regs a) ∧
      (hasEffect s (matchesRt s sa) = false → t.dev = s.dev)

/-- 40_controller.md R114, R120 to R123: the four unused commands complete with STAT, DATA and every device register a draw;
the runtime address, the mode and every other register are unchanged. -/
def Obligations.UnsupportedCommandsDrawEverything : Prop :=
  ∀ (s : State) (cmd sa da d : Word) (i : Instr), s.ctl.busy = .trans cmd sa da d →
    i ∈ [Instr.cmdRd16, .cmdRd32, .cmdWr16, .cmdWr32] →
    ∃ t, exec i s = .next t ∧ CompletionFrame s t ∧
      t.ctl.regs = { s.ctl.regs with stat := peekDraw s 0, data := peekDraw s 1 } ∧
      t.dev.mode = s.dev.mode ∧ t.dev.hw = s.dev.hw ∧ t.dev.rt = s.dev.rt ∧
      (∀ a, a < 256 → memRead t.dev.regs a = (peekDraw s (2 + a)).low8) ∧
      (∀ a, 256 ≤ a → memRead t.dev.regs a = Config.unlistedByte)

/-- 30_encoding.md R82, 40_controller.md R114: a transaction with a reserved CMD value completes in C's step as an
unsupported command does. -/
def Obligations.ReservedCommandCompletes : Prop :=
  ∀ (s : State) (cmd sa da d : Word), s.cfg.wf = true → s.turn = .controller → s.ctl.busy = .trans cmd sa da d →
    (cmd.toNat / 256 ≠ 0 ∨ cmd.low8 ∉ s.cfg.opcodes) →
    ∃ t, step s = .next t ∧ CompletionFrame s t ∧
      t.ctl.regs = { s.ctl.regs with stat := peekDraw s 0, data := peekDraw s 1 } ∧ t.dev.rt = s.dev.rt ∧
      t.dev.mode = s.dev.mode ∧ (∀ a, a < 256 → memRead t.dev.regs a = (peekDraw s (2 + a)).low8)

/-- 40_controller.md R113, R124: any failure status is possible for a WR8, whether or not it addressed a device, and with it
both the store and its absence: some draws give each. That the store is possible where no device was addressed is the
model's reading (log 12). -/
def Obligations.FailedWriteAdmitsBothOutcomes : Prop :=
  ∀ (s : State) (cmd sa da d st : Word), s.ctl.busy = .trans cmd sa da d → Memory.wf s.dev.regs = true →
    isVolatile s.cfg da.low8 = false → st ≠ s.cfg.statSuccess →
    (∃ script t, exec .cmdWr8 { s with script := script } = .next t ∧ t.ctl.regs.stat = st ∧
      memRead t.dev.regs da.low8.toNat = d.low8) ∧
    (∃ script t, exec .cmdWr8 { s with script := script } = .next t ∧ t.ctl.regs.stat = st ∧ t.dev = s.dev)

/-- 40_controller.md R125: a completion is never forced: with the sequencer's turns planned, an operation in flight stays in
flight over any number of polls that do not time out. -/
def Obligations.CompletionNeverForced : Prop :=
  ∀ (s : State) (m : MicroOp) (n : Nat), AtMicroOp m s → s.platformReady = true → s.turn = .sequencer →
    waitsFor s.cfg s.ctl.busy = some m → s.seq.tries + n < s.cfg.pollMaxTries →
    ∃ t, Reaches n { s with plan := List.replicate n .sequencer } t ∧ t.ctl = s.ctl ∧ t.dev = s.dev ∧
      t.seq = { s.seq with tries := s.seq.tries + n }

/-! ## The micro-op engine -/

/-- 41_poll.md R147, 40_controller.md R127: WR is one MmioWrite, then the position advances. A write that triggers nothing, to
CTRL with neither trigger bit, to PMCR without its start bit, or to any other register S may write, stores the word and
starts nothing. -/
def Obligations.WrMicroOpWritesAndAdvances : Prop :=
  ∀ (s : State) (off v : Word), AtMicroOp (.wr off v) s →
    seqStep s = onNext (mmioWrite off v s) advance ∧
      (∀ r, regAt s.cfg off = some r → r ≠ .stat →
        (r = .ctrl → v &&& s.cfg.ctrlSoftRst = 0 ∧ v &&& s.cfg.ctrlStartTrans = 0) →
        (r = .pmcr → v &&& s.cfg.pmcrStart = 0) →
        ∃ t, seqStep s = .next t ∧ t.ctl = { s.ctl with regs := regSet s.ctl.regs r v } ∧ t.dev = s.dev ∧
          (s.seq.mpc + 1 < s.seq.mprog.length → t.seq = { s.seq with mpc := s.seq.mpc + 1 }))

/-- 41_poll.md R146, R145: one poll read either advances with the count cleared, or responds TIMEOUT at the T-th read, or
counts. Advancing past a part's last micro-op runs `part_done`, which for RESET and MODE_SWITCH responds OK. -/
def Obligations.PollMicroOpCases : Prop :=
  ∀ (s : State) (off mask : Word) (r : Reg), AtMicroOp (.poll off mask) s → regAt s.cfg off = some r →
    ∃ t, seqStep s = .next t ∧ t.ctl = s.ctl ∧ t.dev = s.dev ∧
      (readValue r s &&& mask = 0 → s.seq.mpc + 1 < s.seq.mprog.length →
        t.seq = { s.seq with tries := 0, mpc := s.seq.mpc + 1 }) ∧
      (readValue r s &&& mask = 0 → s.seq.mpc + 1 = s.seq.mprog.length →
        t.seq = (partDone { s with seq := { s.seq with tries := 0, mpc := s.seq.mpc + 1 } }).seq ∧
          (s.seq.op = .reset ∨ s.seq.op = .modeSwitch → Responded .ok 0 0 t)) ∧
      (readValue r s &&& mask ≠ 0 → s.seq.tries + 1 = s.cfg.pollMaxTries → Responded .timeout 0 0 t) ∧
      (readValue r s &&& mask ≠ 0 → s.seq.tries + 1 ≠ s.cfg.pollMaxTries →
        t.seq = { s.seq with tries := s.seq.tries + 1 })

/-- 41_poll.md R141, R146: a trigger bit that never clears gives TIMEOUT after exactly T reads: after each fewer number of
reads S still polls, and the T-th read responds. Reads change nothing at C or P. -/
def Obligations.StuckPollTimesOutAfterExactlyT : Prop :=
  ∀ (s : State) (m : MicroOp), AtMicroOp m s → waitsFor s.cfg s.ctl.busy = some m → s.platformReady = true → s.seq.tries = 0 →
    (∀ j, j < s.cfg.pollMaxTries → ∃ u, seqRun j s = .next u ∧ u.seq = { s.seq with tries := j } ∧ u.ctl = s.ctl) ∧
    ∃ t, seqRun s.cfg.pollMaxTries s = .next t ∧ Responded .timeout 0 0 t ∧ t.ctl = s.ctl ∧ t.dev = s.dev ∧ t.flags = s.flags

/-- 41_poll.md R141, R145, 42_bus_controller_ops.md R160, R162, 44_init.md R200: a trigger bit that has cleared gives success
at the next read, at the T-th read too. Before a part's last micro-op S advances; at it RESET and MODE_SWITCH end with OK,
and an INIT stage before the last starts the next, if its speed is valid. -/
def Obligations.ClearedPollSucceedsAtOnce : Prop :=
  ∀ (s : State) (b : Busy) (m : MicroOp), AtMicroOp m s → waitsFor s.cfg b = some m → s.platformReady = true →
    s.ctl.busy = .none →
    ∃ t, seqStep s = .next t ∧ t.ctl = s.ctl ∧ t.dev = s.dev ∧ t.flags = s.flags ∧
      (s.seq.mpc + 1 < s.seq.mprog.length → t.seq = { s.seq with tries := 0, mpc := s.seq.mpc + 1 }) ∧
      (s.seq.mpc + 1 = s.seq.mprog.length → s.seq.op = .reset ∨ s.seq.op = .modeSwitch → Responded .ok 0 0 t) ∧
      (s.seq.mpc + 1 = s.seq.mprog.length → s.seq.op = .init → s.seq.stage < 4 →
        partOk (initPart s.cfg (s.seq.stage + 1)) = true →
        t.seq = { s.seq with
          stage := s.seq.stage + 1, mprog := prog s.cfg (initPart s.cfg (s.seq.stage + 1)), mpc := 0, tries := 0 })

/-- 41_poll.md R149, R145, 42_bus_controller_ops.md R163, 43_transactions.md R181: STATUS advances on `STAT_SUCCESS` and
responds HW_STATUS with the raw value on any other, 0 too. At the last micro-op success ends ASSIGN_RTA and WRITE8 with OK. -/
def Obligations.StatusMicroOpChecksSentinel : Prop :=
  ∀ s : State, AtMicroOp .status s → s.platformReady = true →
    (s.ctl.regs.stat = s.cfg.statSuccess → seqStep s = .next (advance s)) ∧
    (s.ctl.regs.stat = s.cfg.statSuccess → s.seq.mpc + 1 = s.seq.mprog.length →
      s.seq.op = .assignRta ∨ s.seq.op = .write8 → ∃ t, seqStep s = .next t ∧ Responded .ok 0 0 t ∧
      t.ctl = s.ctl ∧ t.dev = s.dev ∧ t.flags = s.flags) ∧
    (s.ctl.regs.stat ≠ s.cfg.statSuccess → ∃ t, seqStep s = .next t ∧ Responded .hwStatus s.ctl.regs.stat 0 t ∧
      t.ctl = s.ctl ∧ t.dev = s.dev ∧ t.flags = s.flags) ∧
    (s.ctl.regs.stat = 0 → ∃ t, seqStep s = .next t ∧ Responded .hwStatus 0 0 t)

/-- 41_poll.md R148: RDDATA latches the low byte of DATA and advances; it stands only right after a STATUS. -/
def Obligations.RddataMicroOpLatchesLowByte : Prop :=
  (∀ s : State, AtMicroOp .rddata s → s.platformReady = true →
    seqStep s = .next (advance { s with seq := { s.seq with data := s.ctl.regs.data.extractLsb' 0 8 } })) ∧
  ∀ (c : RsbConfig) (p : Part) (k : Nat), (prog c p)[k]? = some .rddata → ∃ j, k = j + 1 ∧ (prog c p)[j]? = some .status

/-! ## Whole operations -/

/-- 42_bus_controller_ops.md R161, 95_test_vectors.md E1: a valid SET_SPEED ends OK after acceptance and one access, with
CCR at the value of 30_encoding.md R83 and every other register and the device unchanged. -/
def Obligations.SpeedOperationProgramsCcr : Prop :=
  ∀ (s : State) (r : Request) (src bus : Word), AtRequest r s → decodeRequest r = some (.rsbSpeed src bus) → bus ≠ 0 →
    2 ≤ src.toNat / bus.toNat →
    ∃ t, seqRun 2 s = .next t ∧ Responded .ok 0 0 t ∧ t.dev = s.dev ∧
      t.ctl = { s.ctl with
        regs := { s.ctl.regs with
          ccr := BitVec.ofNat 32 (src.toNat / bus.toNat / 2 - 1) ||| s.cfg.ccrDelayBit } }

/-- 43_transactions.md R180: a READ8 of a plain register of the addressed device, completed at once with success, answers OK
with the device's byte, and leaves the device and the fault flags as they were. -/
def Obligations.ReadOperationReturnsDeviceByte : Prop :=
  ∀ (s : State) (r : Request) (rt reg : Byte), AtRequest r s → decodeRequest r = some (.rsbRd8 rt reg) →
    s.cfg.fieldsApart = true → s.platformReady = true → s.ctl.busy = .none → s.ctl.wasReset = true →
    s.dev.mode = .rsb → s.dev.rt = some rt → isVolatile s.cfg reg = false →
    Planned [.sequencer, .sequencer, .sequencer, .sequencer, .sequencer, .controller, .sequencer, .sequencer,
      .sequencer] s →
    peekDraw s 9 = s.cfg.statSuccess →
    ∃ t, Reaches 9 s t ∧ Responded .ok 0 (memRead s.dev.regs reg.toNat) t ∧ t.dev = s.dev ∧ t.flags = s.flags ∧
      t.ctl.busy = .none

/-- 43_transactions.md R181: a WRITE8 to a plain register of the addressed device, completed at once with success, answers OK;
the device holds the byte there and every other byte is as before. -/
def Obligations.WriteOperationStoresByte : Prop :=
  ∀ (s : State) (r : Request) (rt reg val : Byte), AtRequest r s → decodeRequest r = some (.rsbWr8 rt reg val) →
    s.cfg.fieldsApart = true → s.platformReady = true → s.ctl.busy = .none → s.ctl.wasReset = true →
    s.dev.mode = .rsb → s.dev.rt = some rt → isVolatile s.cfg reg = false → Memory.wf s.dev.regs = true →
    Planned [.sequencer, .sequencer, .sequencer, .sequencer, .sequencer, .sequencer, .controller, .sequencer,
      .sequencer] s →
    peekDraw s 9 = s.cfg.statSuccess →
    ∃ t, Reaches 9 s t ∧ Responded .ok 0 0 t ∧ t.flags = s.flags ∧ t.ctl.busy = .none ∧
      t.dev.mode = s.dev.mode ∧ t.dev.hw = s.dev.hw ∧ t.dev.rt = s.dev.rt ∧
      ∀ a, memRead t.dev.regs a = if a = reg.toNat then val else memRead s.dev.regs a

/-- 43_transactions.md R182, 95_test_vectors.md E4 and P5: an RMW of a plain register of the addressed device, both parts
completed at once with success, answers OK after 14 accesses; the device holds `(old & ~clr) | set` there and every other
byte is as before. -/
def Obligations.RmwOperationWritesBack : Prop :=
  ∀ (s : State) (r : Request) (rt reg clr set : Byte), AtRequest r s → decodeRequest r = some (.rsbRmw rt reg clr set) →
    s.cfg.fieldsApart = true → s.platformReady = true → s.ctl.busy = .none → s.ctl.wasReset = true →
    s.dev.mode = .rsb → s.dev.rt = some rt → isVolatile s.cfg reg = false → Memory.wf s.dev.regs = true →
    Planned [.sequencer, .sequencer, .sequencer, .sequencer, .sequencer, .controller, .sequencer, .sequencer,
      .sequencer, .sequencer, .sequencer, .sequencer, .sequencer, .sequencer, .controller, .sequencer, .sequencer] s →
    peekDraw s 9 = s.cfg.statSuccess → peekDraw s 14 = s.cfg.statSuccess →
    ∃ t, Reaches 17 s t ∧ Responded .ok 0 0 t ∧ t.flags = s.flags ∧ t.ctl.busy = .none ∧
      ∀ a, memRead t.dev.regs a =
        if a = reg.toNat then (memRead s.dev.regs reg.toNat &&& ~~~clr) ||| set else memRead s.dev.regs a

/-- 44_init.md R200, R201, 95_test_vectors.md P1: an INIT whose completions come right after their triggers, whose
mode-switch write is received and whose SRTA reports success answers OK after 11 accesses, and leaves the end state of P1:
the registers as written, PMCR with its start bit reading 0, DADDR, DATA, DLEN, INTE and LCR the draws of the soft reset, the
device in RSB mode at the runtime address. For a shift other than 16 the SRTA's match rests on the model's reading of the
hardware-address field (log 15). -/
def Obligations.InitOperationBringsDeviceUp : Prop :=
  ∀ (s : State) (r : Request), AtRequest r s → decodeRequest r = some .rsbInit →
    s.cfg.fieldsApart = true → s.platformReady = true → s.ctl.busy = .none →
    s.dev.mode = .i2c → s.dev.hw = s.cfg.pmicHwAddr → isModeSwitch s.cfg.modeSwitchPayload = true →
    speedOk s.cfg.hsSrcFreq s.cfg.hsBusFreq = true → speedOk s.cfg.hsSrcFreq s.cfg.opBusFreq = true →
    Planned [.sequencer, .sequencer, .controller, .sequencer, .sequencer, .sequencer, .controller, .sequencer, .sequencer,
      .sequencer, .sequencer, .sequencer, .controller, .sequencer, .sequencer] s →
    (peekDraw s 21).getLsbD 0 = true → peekDraw s 23 = s.cfg.statSuccess →
    ∃ t, Reaches 15 s t ∧ Responded .ok 0 0 t ∧ t.flags = s.flags ∧ t.ctl.busy = .none ∧ t.ctl.wasReset = true ∧
      t.ctl.regs =
        { ctrl := s.cfg.ctrlStartTrans, ccr := ccrValue s.cfg s.cfg.hsSrcFreq s.cfg.opBusFreq, inte := peekDraw s 11
          stat := s.cfg.statSuccess, daddr := peekDraw s 13, dlen := peekDraw s 14, data := peekDraw s 15
          lcr := peekDraw s 16, pmcr := pmcrValue s.cfg s.cfg.modeSwitchPayload, cmd := s.cfg.cmdSrta.zext
          saddr := saddrSrta s.cfg s.cfg.pmicHwAddr s.cfg.pmicRtAddr } ∧
      readValue .ctrl t &&& (s.cfg.ctrlSoftRst ||| s.cfg.ctrlStartTrans) = 0 ∧
      readValue .pmcr t = s.cfg.modeSwitchPayload.zeroExtend 32 ∧
      t.dev = { s.dev with mode := .rsb, rt := some s.cfg.pmicRtAddr }

/-- 44_init.md R202: whatever happens between, an INIT that answers OK with no fault flag set leaves the device in RSB mode
at the runtime address, CCR at the operating speed (0x103 by default), nothing in flight and the controller reset. The run
starts with S in IDLE and no response outstanding, and C and P in any state. -/
def Obligations.InitOkMeansDeviceIsUp : Prop :=
  (∀ (n : Nat) (s t : State), s.seq.phase = .idle → s.seq.respValid = false → s.cfg.fieldsApart = true →
    Reaches n s t → t.seq.op = .init → t.seq.respValid = true → t.seq.respKind = .ok → t.flags.clear = true →
    t.dev.mode = .rsb ∧ t.dev.rt = some s.cfg.pmicRtAddr ∧
      t.ctl.regs.ccr = ccrValue s.cfg s.cfg.hsSrcFreq s.cfg.opBusFreq ∧ t.ctl.busy = .none ∧ t.ctl.wasReset = true) ∧
  ccrValue RsbConfig.default RsbConfig.default.hsSrcFreq RsbConfig.default.opBusFreq = 0x00000103#32

/-- 43_transactions.md R182, 44_init.md R200, 60_exceptions.md R223: a part of an RMW or INIT that fails, by a STATUS that reads
a failure or by the T-th read of a POLL that still sees its bit set, ends the operation in that step with HW_STATUS and the
code, or with TIMEOUT: S is in IDLE, the stage as it was, and neither C nor P changes. -/
def Obligations.FailedPartEndsComposite : Prop :=
  ∀ s : State, s.seq.op = .rmw ∨ s.seq.op = .init →
    (AtMicroOp .status s → s.platformReady = true → s.ctl.regs.stat ≠ s.cfg.statSuccess →
      ∃ t, seqStep s = .next t ∧ Responded .hwStatus s.ctl.regs.stat 0 t ∧ t.ctl = s.ctl ∧ t.dev = s.dev ∧
        t.seq.stage = s.seq.stage) ∧
    (∀ m, AtMicroOp m s → waitsFor s.cfg s.ctl.busy = some m → s.platformReady = true →
      s.seq.tries + 1 = s.cfg.pollMaxTries →
      ∃ t, seqStep s = .next t ∧ Responded .timeout 0 0 t ∧ t.ctl = s.ctl ∧ t.dev = s.dev ∧ t.seq.stage = s.seq.stage)

/-! ## What every step keeps -/

/-- 10_state.md R22 to R25, R36; 41_poll.md R145: every step keeps the machine's invariant. -/
def Obligations.StepKeepsSysInv : Prop := ∀ s t : State, SysInv s → step s = .next t → SysInv t

/-- 10_state.md R38: the state after reset meets the invariant, and every field R38 gives a value has it: S idle with no
response and its counters 0, nothing in flight and the controller never reset, the trigger bits and STAT read 0, the device
in I2C mode with its hardware address and no runtime address, no fault flag set. -/
def Obligations.ResetValuesAndInvariant : Prop :=
  SysInv State.reset ∧ State.reset.seq.phase = .idle ∧ State.reset.seq.respValid = false ∧
    State.reset.seq.tries = 0 ∧ State.reset.seq.mpc = 0 ∧ State.reset.seq.stage = 0 ∧
    State.reset.ctl.busy = .none ∧ State.reset.ctl.wasReset = false ∧
    regRead .ctrl State.reset &&& (State.reset.cfg.ctrlSoftRst ||| State.reset.cfg.ctrlStartTrans) = 0 ∧
    regRead .pmcr State.reset &&& State.reset.cfg.pmcrStart = 0 ∧ regRead .stat State.reset = 0x00000000#32 ∧
    State.reset.dev.mode = .i2c ∧ State.reset.dev.hw = 0x3A3#12 ∧ State.reset.dev.rt = none ∧
    State.reset.flags = { notReady := false, notReset := false, overlap := false, badCmd := false }

/-- 60_exceptions.md R222, 41_poll.md R150, R143, 20_memory.md R64, 00_scope.md R7, 30_encoding.md R80: with the invariant and no
reserved request at the port, no step faults or is refused: the machine never gets stuck. Under an ill-formed configuration
every step is refused: a budget of 0, a base or an offset that is no multiple of 4 make one. R143 and R64 name the refusal
for these three. What else counts as ill formed and is refused is the model's reading (log 25, DEDUCED): the other conditions
of R7, and the distinctness of the seven opcodes, which R80 states and R7 does not list. -/
def Obligations.SysInvStepsGoOn : Prop :=
  (∀ s : State, SysInv s → PortLegal s → ∃ t, step s = .next t) ∧
  (∀ s : State, s.cfg.wf = false → step s = .refused .illFormedConfig) ∧
  ∀ s : State, (s.cfg.pollMaxTries = 0 ∨ s.cfg.rsbBase.toNat % 4 ≠ 0 ∨ ∃ r, (offsetOf s.cfg r).toNat % 4 ≠ 0) →
    step s = .refused .illFormedConfig

/-- 41_poll.md R150: every accepted operation ends within the table's number of S's steps, whatever C and H do. The count
leaves room for the acceptance step before and for at least one step to come. -/
def Obligations.OperationsEndWithinBound : Prop :=
  ∀ (n : Nat) (s : State), SysInv s → JustAccepted s →
    (∀ k, k ≤ n → ∃ u, Reaches k s u ∧ u.seq.phase = .run) →
    seqTurns n s + 2 ≤ opStepsMax s.cfg.pollMaxTries s.seq.op

/-- 70_reset_and_hazards.md R254, 60_exceptions.md R225, R234: from a quiet, reset, ready machine no fault flag is ever set
unless an operation has timed out. -/
def Obligations.FlagsStayClearWithoutTimeout : Prop :=
  ∀ (n : Nat) (s t : State), SysInv s → Quiet s → s.platformReady = true → s.ctl.wasReset = true → s.flags.clear = true →
    Reaches n s t → (∀ k u, k ≤ n → Reaches k s u → ¬TimedOut u) → t.flags.clear = true

/-- 10_state.md R33: no step clears a fault flag. -/
def Obligations.FaultFlagsAreSticky : Prop :=
  ∀ s t : State, step s = .next t →
    (s.flags.notReady = true → t.flags.notReady = true) ∧ (s.flags.notReset = true → t.flags.notReset = true) ∧
      (s.flags.overlap = true → t.flags.overlap = true) ∧ (s.flags.badCmd = true → t.flags.badCmd = true)

/-- 00_scope.md R6, 10_state.md R33, R35: no step changes the parameters, the platform flag or the hardware address. -/
def Obligations.LaunchParametersNeverChange : Prop :=
  ∀ s t : State, step s = .next t → t.cfg = s.cfg ∧ t.platformReady = s.platformReady ∧ t.dev.hw = s.dev.hw

/-- 20_memory.md R60, R69, R75: the device changes only inside the completion of a transaction or of a mode switch. -/
def Obligations.DeviceChangesOnlyInCompletions : Prop :=
  ∀ s t : State, step s = .next t → t.dev ≠ s.dev →
    s.turn = .controller ∧ ((∃ cmd sa da d, s.ctl.busy = .trans cmd sa da d) ∨ ∃ p, s.ctl.busy = .pmode p)

/-- 10_state.md R34: the mode is I2C at power-on, and the only thing that changes it is the completion of a mode switch of
0x7C to register 0x3E in I2C mode. -/
def Obligations.ModeChangesOnlyByModeSwitch : Prop :=
  State.reset.dev.mode = .i2c ∧
    ∀ s t : State, step s = .next t → t.dev.mode ≠ s.dev.mode →
      s.turn = .controller ∧ s.dev.mode = .i2c ∧ t.dev.mode = .rsb ∧ t.dev.rt = none ∧
        ∃ p, s.ctl.busy = .pmode p ∧ p.extractLsb' 8 16 = 0x7C3E#16

/-- 10_state.md R35, 40_controller.md R117, R124: the runtime address is none at power-on, and changes only to the address an
SRTA carries, at its completion, with a match if it reports success, or to none at a mode switch. That an SRTA that fails
without a match may change it is the model's reading (log 12), and so is the match for a shift other than 16 (log 15). -/
def Obligations.RuntimeAddressChangesOnlyBySrta : Prop :=
  State.reset.dev.rt = none ∧
    ∀ s t : State, step s = .next t → t.dev.rt ≠ s.dev.rt →
      s.turn = .controller ∧
        ((∃ sa da d, s.ctl.busy = .trans s.cfg.cmdSrta.zext sa da d ∧ t.dev.rt = some (saddrRta s.cfg sa) ∧
          (t.ctl.regs.stat = s.cfg.statSuccess → matchesHw s sa = true)) ∨
        (t.dev.rt = none ∧ s.dev.mode = .i2c ∧ t.dev.mode = .rsb))

/-- 70_reset_and_hazards.md R255, 40_controller.md R127: under the invariant S never writes INTE, DLEN, LCR or STAT, and
nothing but a soft reset's completion changes INTE, DLEN or LCR. -/
def Obligations.UnwrittenRegistersKeepTheirWords : Prop :=
  ∀ s t : State, SysInv s → step s = .next t → ¬(s.turn = .controller ∧ s.ctl.busy = .resetting) →
    t.ctl.regs.inte = s.ctl.regs.inte ∧ t.ctl.regs.dlen = s.ctl.regs.dlen ∧ t.ctl.regs.lcr = s.ctl.regs.lcr ∧
      (s.turn ≠ .controller → t.ctl.regs.stat = s.ctl.regs.stat)

/-- 00_scope.md R3, 10_state.md R20: only S's own steps change S. -/
def Obligations.OnlySequencerChangesItself : Prop :=
  ∀ s t : State, step s = .next t → s.turn ≠ .sequencer → t.seq = s.seq

/-- 70_reset_and_hazards.md R251: any register access before the platform preconditions hold sets F.not_ready, and every read
returns a draw, which is then what S checks: a STATUS reports it, and READ8's RDDATA answers its low byte. -/
def Obligations.AccessBeforePlatformReadyFlagged : Prop :=
  (∀ (s t : State) (m : MicroOp), AtMicroOp m s → s.platformReady = false → seqStep s = .next t →
    t.flags.notReady = true) ∧
  (∀ (s : State) (r : Reg), s.platformReady = false →
    readValue r s = peekDraw s 0 ∧ ∀ k, peekDraw (afterRead r s) k = peekDraw s (k + 1)) ∧
  ∀ s : State, s.platformReady = false →
    (AtMicroOp .status s → peekDraw s 0 ≠ s.cfg.statSuccess →
      ∃ t, seqStep s = .next t ∧ Responded .hwStatus (peekDraw s 0) 0 t) ∧
    (AtMicroOp .rddata s → s.seq.mpc + 1 = s.seq.mprog.length → s.seq.op = .read8 →
      ∃ t, seqStep s = .next t ∧ Responded .ok 0 (peekDraw s 0).low8 t)

/-- 70_reset_and_hazards.md R254: any register write while a controller operation is in flight sets F.overlap. -/
def Obligations.WriteWhileBusyFlagged : Prop :=
  ∀ (s t : State) (off v : Word), mmioWrite off v s = .next t → s.ctl.busy ≠ .none → t.flags.overlap = true

/-- 70_reset_and_hazards.md R250: a reset of S, in any phase, abandons the operation without a response and leaves C, P, the
flags and the request port as they are. That the
port is kept and the line cleared is the model's choice (log 8). -/
def Obligations.SequencerResetAbandonsOperation : Prop :=
  ∀ s : State, s.cfg.wf = true → s.turn = .sequencer → s.seqResetIn = true →
    ∃ t, step s = .next t ∧ t.seq.phase = .idle ∧ t.seq.respValid = false ∧ t.seq.tries = 0 ∧ t.seq.mpc = 0 ∧
      t.seq.stage = 0 ∧ t.ctl = s.ctl ∧ t.dev = s.dev ∧ t.flags = s.flags ∧ t.request = s.request ∧ t.host = s.host ∧
      t.seqResetIn = false

/-! ## The host and the boundary -/

/-- 30_encoding.md R96, 45_client_boundary.md R210: a host keeps each response it reads unchanged, goes on after OK and stops
at the first response that is not OK; a host that is stopped or off presents nothing more (45_client_boundary.md R213). The
result of a client's read, write or clear-set-bits is the byte or success of the response, or the response unchanged. -/
def Obligations.HostStopsAtFirstFailure : Prop :=
  (∀ s : State, s.cfg.wf = true → s.turn = .host → s.host.status = .running → s.host.awaiting = true →
    s.request = none → s.seq.phase = .idle → s.seq.respValid = true →
    ∃ t, step s = .next t ∧ t.host.program = s.host.program ∧ t.request = none ∧ t.host.awaiting = false ∧
      t.seq = s.seq ∧ t.ctl = s.ctl ∧ t.dev = s.dev ∧
      t.host.received =
        s.host.received ++ [{ kind := s.seq.respKind, code := s.seq.respCode, data := s.seq.respData }] ∧
      (s.seq.respKind ≠ .ok → t.host.status = .stopped) ∧ (s.seq.respKind = .ok → t.host.status = .running)) ∧
  (∀ s t : State, step s = .next t → s.host.status ≠ .running →
    t.host = s.host ∧ (t.request = s.request ∨ t.request = none)) ∧
  ∀ (c : RsbConfig) (r : Response) (rest : List Response) (a v clr set : Byte),
    (r.kind = .ok → callResult c (.read a) (r :: rest) = some (.byte r.data) ∧
      callResult c (.write a v) (r :: rest) = some .unit ∧ callResult c (.clearSetBits a clr set) (r :: rest) = some .unit) ∧
    (r.kind ≠ .ok → callResult c (.read a) (r :: rest) = some (.failed r) ∧
      callResult c (.write a v) (r :: rest) = some (.failed r) ∧
      callResult c (.clearSetBits a clr set) (r :: rest) = some (.failed r))

/-- 45_client_boundary.md R213, R210: a power-off or reboot line is presented once, as one WRITE8 or RMW at the PMIC's runtime
address, and the host is then off; the call never returns. Which of the two, the register and the bits are the action's own,
since no source gives them (log 30). -/
def Obligations.PowerActionEndsHostProgram : Prop :=
  (∀ (s : State) (w : PowerWrite) (rest : List HostAction), s.cfg.wf = true → s.turn = .host →
    s.host.status = .running → s.host.awaiting = false → s.request = none → s.seq.phase = .idle →
    s.host.program = .powerAction w :: rest →
    ∃ t r, step s = .next t ∧ t.request = some r ∧ t.host.status = .off ∧ t.seq = s.seq ∧ t.ctl = s.ctl ∧ t.dev = s.dev ∧
      (∀ reg val, w = .write8 reg val → decodeRequest r = some (.rsbWr8 s.cfg.pmicRtAddr reg val)) ∧
      (∀ reg clr set, w = .rmw reg clr set → decodeRequest r = some (.rsbRmw s.cfg.pmicRtAddr reg clr set))) ∧
  ∀ (c : RsbConfig) (w : PowerWrite) (answers : List Response),
    clientProgram c (.powerOff w) = .ok [.powerAction w] ∧ clientProgram c (.reboot w) = .ok [.powerAction w] ∧
      callResult c (.powerOff w) answers = none ∧ callResult c (.reboot w) answers = none

/-- 45_client_boundary.md R211: a scratch access within bounds is one READ8 or WRITE8 at `SCRATCH_BASE + offset`; beyond
them it is OutOfRange and no request. That the sum wraps modulo 256 is the model's choice (log 32). -/
def Obligations.ScratchAccessBounds : Prop :=
  ∀ (slot : Nat) (v : Byte) (answers : List Response),
    (slot ≤ 11 →
      (∃ r, clientProgram RsbConfig.default (.readData slot) = .ok [.request r] ∧
        decodeRequest r = some (.rsbRd8 0x2D#8 (Config.scratchBase + BitVec.ofNat 8 slot))) ∧
      (∃ r, clientProgram RsbConfig.default (.writeData slot v) = .ok [.request r] ∧
        decodeRequest r = some (.rsbWr8 0x2D#8 (Config.scratchBase + BitVec.ofNat 8 slot) v))) ∧
    (12 ≤ slot → clientProgram RsbConfig.default (.readData slot) = .error .outOfRange ∧
      clientProgram RsbConfig.default (.writeData slot v) = .error .outOfRange ∧
      callResult RsbConfig.default (.readData slot) answers = some (.clientError .outOfRange) ∧
      callResult RsbConfig.default (.writeData slot v) answers = some (.clientError .outOfRange))

/-- 30_encoding.md R93, R94: the two bits of each kind, and the integer form: 0 or the byte for OK, the negated status
modulo 2^32 for HW_STATUS, the two parameters for the others; HW_STATUS with code 0 reads as OK does. -/
def Obligations.ResponseEncodings : Prop :=
  respKindBits .ok = 0b00#2 ∧ respKindBits .timeout = 0b01#2 ∧ respKindBits .hwStatus = 0b10#2 ∧
    respKindBits .invalidArgument = 0b11#2 ∧
    ∀ (c : RsbConfig) (code : Word) (data : Byte),
      responseInt c .ok 0 0 = 0 ∧ responseInt c .ok 0 data = data.zeroExtend 32 ∧
        0 ≤ (responseInt c .ok 0 data).toInt ∧
        (responseInt c .hwStatus code 0).toNat = (2 ^ 32 - code.toNat) % 2 ^ 32 ∧
        responseInt c .timeout 0 0 = c.errnoTimeout ∧ responseInt c .invalidArgument 0 0 = c.errnoInvalid ∧
        responseInt c .hwStatus 0 0 = responseInt c .ok 0 0

/-- 30_encoding.md R96: a line with one of the eight mnemonics and operands of its widths, each in decimal or in 0x-hex with
letters of either case, assembles to the encoding of its own instruction, whatever blanks follow the mnemonic. Every request
the assembler makes of a line is the encoding of an instruction, which it decodes to. The line `rsb.rd8 0x2D, 33` gives the
request of V6. The lexical forms beyond R96's words (zeros in front, letters of either case, blanks) are the model's choice
(log 29). -/
def Obligations.AssembledRequestDecodes : Prop :=
  (∀ (line : List Char) (r : Request), assembleLine line = some r →
    ∃ i, encodeRequest i = some r ∧ decodeRequest r = some i) ∧
  assembleLine ['r', 's', 'b', '.', 'r', 'd', '8', ' ', '0', 'x', '2', 'D', ',', ' ', '3', '3'] =
    some { op := 0x4#4, a0 := 0, a1 := 0, a2 := 0x2D#8, a3 := 0x21#8 } ∧
  (∀ k, assembleLine (lineText ['r', 'e', 's', 'e', 't'] k []) = encodeRequest .rsbReset) ∧
  (∀ k, assembleLine (lineText ['i', 'n', 'i', 't'] k []) = encodeRequest .rsbInit) ∧
  ∀ (k : Nat) (x y z w : List Char),
    (∀ src bus : Word, IsNumeral x src.toNat → IsNumeral y bus.toNat →
      assembleLine (lineText ['s', 'p', 'e', 'e', 'd'] (k + 1) [x, y]) = encodeRequest (.rsbSpeed src bus)) ∧
    (∀ p : Payload, IsNumeral x p.toNat →
      assembleLine (lineText ['m', 'o', 'd', 'e', 's', 'w'] (k + 1) [x]) = encodeRequest (.rsbModesw p)) ∧
    (∀ (hw : HwAddr) (rt : Byte), IsNumeral x hw.toNat → IsNumeral y rt.toNat →
      assembleLine (lineText ['s', 'r', 't', 'a'] (k + 1) [x, y]) = encodeRequest (.rsbSrta hw rt)) ∧
    (∀ rt reg : Byte, IsNumeral x rt.toNat → IsNumeral y reg.toNat →
      assembleLine (lineText ['r', 'd', '8'] (k + 1) [x, y]) = encodeRequest (.rsbRd8 rt reg)) ∧
    (∀ rt reg val : Byte, IsNumeral x rt.toNat → IsNumeral y reg.toNat → IsNumeral z val.toNat →
      assembleLine (lineText ['w', 'r', '8'] (k + 1) [x, y, z]) = encodeRequest (.rsbWr8 rt reg val)) ∧
    (∀ rt reg clr set : Byte, IsNumeral x rt.toNat → IsNumeral y reg.toNat → IsNumeral z clr.toNat →
      IsNumeral w set.toNat →
      assembleLine (lineText ['r', 'm', 'w'] (k + 1) [x, y, z, w]) = encodeRequest (.rsbRmw rt reg clr set))

/-- 30_encoding.md R97: the stages of INIT are, in order, the parts of the five requests of its host program, and RMW's
write part is the WRITE8 of its own. -/
def Obligations.CompositesRunTheirHostProgram : Prop :=
  (∀ c : RsbConfig, (initAsProgram c).map partOf = (List.range 5).map fun k => some (initPart c k)) ∧
  ∀ (s : State), s.seq.op = .rmw → s.seq.stage = 0 →
    (rmwAsProgram s.seq.rt s.seq.reg s.seq.clr s.seq.set s.seq.data).map partOf =
      [some (currentPart s), some (currentPart (partDone s))]
end

