-- ==== Sys2Proof/Laws/Client.lean ====
section
/-! SUPPORT. Laws of the boundary: numerals and lines of the assembler, a call's result, the request of a power action. -/

namespace Sys2Proof.Machine

/-! ## The assembler -/

/-- The digit a numeral is written with has its value. -/
theorem digitValue_digitChar {b d : Nat} (hb : b = 10 ∨ b = 16) (hd : d < b) : digitValue (Nat.digitChar d) = some d := by
  have : d < 16 := by omega
  interval_cases d <;> decide

/-- Digits are read one after another. -/
theorem digitsFrom_append (b acc : Nat) (xs ys : List Char) :
    digitsFrom b acc (xs ++ ys) = (digitsFrom b acc xs).bind fun a => digitsFrom b a ys := by
  induction xs generalizing acc with
  | nil => rfl
  | cons ch rest ih =>
    simp only [List.cons_append, digitsFrom]
    cases digitValue ch with
    | none => rfl
    | some d => by_cases h : d < b <;> simp [h, ih]

/-- The digits of a number read as the number. -/
theorem digitsFrom_toDigits {b : Nat} (hb : b = 10 ∨ b = 16) (n : Nat) : digitsFrom b 0 (Nat.toDigits b n) = some n := by
  induction n using Nat.strongRecOn with
  | ind n ih =>
    have h1 : 1 < b := by omega
    by_cases hn : n < b
    · rw [Nat.toDigits_of_lt_base hn]; simp [digitsFrom, digitValue_digitChar hb hn, hn]
    · have hl : n % b < b := Nat.mod_lt _ (by omega)
      rw [Nat.toDigits_of_base_le h1 (by omega), digitsFrom_append, ih (n / b) (Nat.div_lt_self (by omega) h1)]
      simp [digitsFrom, digitValue_digitChar hb hl, hl, Nat.div_add_mod']

/-- No digit of a number separates tokens or is the `x` of a hexadecimal numeral. -/
theorem toDigits_not_separator {b : Nat} (hb : b = 10 ∨ b = 16) (n : Nat) :
    ∀ ch ∈ Nat.toDigits b n, isSeparator ch = false ∧ ch ≠ 'x' := by
  induction n using Nat.strongRecOn with
  | ind n ih =>
    have h1 : 1 < b := by omega
    have key : ∀ d < b, isSeparator (Nat.digitChar d) = false ∧ Nat.digitChar d ≠ 'x' := by
      intro d hd; have : d < 16 := by omega
      interval_cases d <;> decide
    by_cases hn : n < b
    · rw [Nat.toDigits_of_lt_base hn]; simpa using key n hn
    · rw [Nat.toDigits_of_base_le h1 (by omega)]
      intro ch hc
      simp only [List.mem_append, List.mem_singleton] at hc
      rcases hc with hc | rfl
      · exact ih _ (Nat.div_lt_self (by omega) h1) ch hc
      · exact key _ (Nat.mod_lt _ (by omega))

/-- A number has a digit. -/
theorem toDigits_ne_nil {b : Nat} (hb : b = 10 ∨ b = 16) (n : Nat) : Nat.toDigits b n ≠ [] := by
  have h1 : 1 < b := by omega
  by_cases hn : n < b
  · simp [Nat.toDigits_of_lt_base hn]
  · simp [Nat.toDigits_of_base_le h1 (by omega : b ≤ n)]

/-- A capital letter is the lower-case letter 32 places on; `toLower` leaves any other character. -/
theorem toLower_cases (ch : Char) :
    (∃ k, k < 26 ∧ ch = Char.ofNat (65 + k) ∧ ch.toLower = Char.ofNat (97 + k)) ∨ ch.toLower = ch := by
  by_cases h : ch.val ≥ 'A'.val ∧ ch.val ≤ 'Z'.val
  · left
    have h1 : 65 ≤ ch.toNat := h.1
    have h2 : ch.toNat ≤ 90 := h.2
    have e : ch = Char.ofNat ch.toNat := (Char.ofNat_toNat ch).symm
    refine ⟨ch.toNat - 65, by omega, by rw [Nat.add_sub_cancel' h1]; exact e, ?_⟩
    generalize ch.toNat = n at *
    subst e
    interval_cases n <;> decide
  · right; simp only [Char.toLower]; simp only [h, dite_false]

/-- A digit has the value of its lower-case form. -/
theorem digitValue_toLower (ch : Char) : digitValue ch.toLower = digitValue ch := by
  rcases toLower_cases ch with ⟨k, hk, e, e'⟩ | h
  · rw [e, ← e, e', e]; interval_cases k <;> decide
  · rw [h]

/-- A character separates tokens as its lower-case form does. -/
theorem isSeparator_toLower (ch : Char) : isSeparator ch.toLower = isSeparator ch := by
  rcases toLower_cases ch with ⟨k, hk, e, e'⟩ | h
  · rw [e, ← e, e', e]; interval_cases k <;> decide
  · rw [h]

/-- Digits read as their lower-case forms do. -/
theorem digitsFrom_toLower (b acc : Nat) (ds : List Char) : digitsFrom b acc (ds.map Char.toLower) = digitsFrom b acc ds := by
  induction ds generalizing acc with
  | nil => rfl
  | cons ch rest ih => simp only [List.map_cons, digitsFrom, digitValue_toLower, ih]

/-- Zeros in front of a number's digits add nothing. -/
theorem digitsFrom_zeros {b : Nat} (hb : 0 < b) (k : Nat) (ds : List Char) :
    digitsFrom b 0 (List.replicate k '0' ++ ds) = digitsFrom b 0 ds := by
  induction k with
  | zero => rfl
  | succ k ih =>
    simp only [List.replicate_succ, List.cons_append, digitsFrom, show digitValue '0' = some 0 by decide, if_pos hb]
    simpa using ih

/-- No character of a decimal numeral separates tokens or is an `x`. -/
theorem decimal_not_separator (k n : Nat) :
    ∀ ch ∈ List.replicate k '0' ++ Nat.toDigits 10 n, isSeparator ch = false ∧ ch ≠ 'x' := by
  intro ch hc
  rcases List.mem_append.mp hc with hc | hc
  · obtain rfl := List.eq_of_mem_replicate hc; decide
  · exact toDigits_not_separator (.inl rfl) n ch hc

/-- A numeral reads as its number. -/
theorem numeral_of_isNumeral {t : List Char} {n : Nat} (h : IsNumeral t n) : numeral t = some n := by
  rcases h with ⟨k, rfl⟩ | ⟨k, ds, rfl, hds⟩
  · have hd : digitsFrom 10 0 (List.replicate k '0' ++ Nat.toDigits 10 n) = some n := by
      rw [digitsFrom_zeros (by decide), digitsFrom_toDigits (.inl rfl)]
    have hx := decimal_not_separator k n
    have hne : List.replicate k '0' ++ Nat.toDigits 10 n ≠ [] := by simp [toDigits_ne_nil (.inl rfl) n]
    generalize List.replicate k '0' ++ Nat.toDigits 10 n = t at *
    unfold numeral
    split
    · simp at hne
    · simp at hx
    · simp at hx
    · exact hd
  · have hd : digitsFrom 16 0 (List.replicate k '0' ++ ds) = some n := by
      rw [digitsFrom_zeros (by decide), ← digitsFrom_toLower, hds, digitsFrom_toDigits (.inr rfl)]
    have hne : List.replicate k '0' ++ ds ≠ [] := by
      intro e
      have : ds = [] := (List.append_eq_nil_iff.mp e).2
      rw [this] at hds
      exact toDigits_ne_nil (.inr rfl) n hds.symm
    generalize List.replicate k '0' ++ ds = t at *
    match t, hne with
    | c :: r, _ => simpa [numeral] using hd

/-- A numeral is one token. -/
theorem isNumeral_token {t : List Char} {n : Nat} (h : IsNumeral t n) : (∀ ch ∈ t, isSeparator ch = false) ∧ t ≠ [] := by
  rcases h with ⟨k, rfl⟩ | ⟨k, ds, rfl, hds⟩
  · exact ⟨fun ch hc => (decimal_not_separator k n ch hc).1, by simp [toDigits_ne_nil (.inl rfl) n]⟩
  · refine ⟨fun ch hc => ?_, by simp⟩
    simp only [List.mem_cons, List.mem_append] at hc
    rcases hc with rfl | rfl | hc | hc
    · decide
    · decide
    · obtain rfl := List.eq_of_mem_replicate hc; decide
    · have : ch.toLower ∈ Nat.toDigits 16 n := hds ▸ List.mem_map_of_mem hc
      rw [← isSeparator_toLower]
      exact (toDigits_not_separator (.inr rfl) n _ this).1

/-- Characters that do not separate go on with the token being read. -/
theorem tokensFrom_append {t : List Char} (h : ∀ ch ∈ t, isSeparator ch = false) (cur rest : List Char) :
    tokensFrom cur (t ++ rest) = tokensFrom (cur ++ t) rest := by
  induction t generalizing cur with
  | nil => simp
  | cons c r ih =>
    simp only [List.cons_append, tokensFrom, h c (by simp), Bool.false_eq_true, if_false]
    rw [ih (fun ch hc => h ch (by simp [hc]))]; simp

/-- The operands of a line are its tokens. -/
theorem tokensFrom_operands (toks : List (List Char)) (h : ∀ t ∈ toks, (∀ ch ∈ t, isSeparator ch = false) ∧ t ≠ []) :
    tokensFrom [] (operandText toks) = toks := by
  fun_induction operandText toks with
  | case1 => rfl
  | case2 t =>
    have := h t (by simp)
    have e := tokensFrom_append this.1 [] []
    simp only [List.append_nil, List.nil_append] at e
    rw [e]; simp [tokensFrom, this.2]
  | case3 t rest hne ih =>
    have ht := h t (by simp)
    rw [tokensFrom_append ht.1]
    simp only [List.nil_append, tokensFrom, show isSeparator ',' = true by decide, show isSeparator ' ' = true by decide,
      if_true, List.isEmpty_nil]
    simp [ht.2, ih (fun t ht => h t (by simp [ht]))]

/-- Blanks between two tokens are skipped. -/
theorem tokensFrom_blanks (k : Nat) (rest : List Char) :
    tokensFrom [] (List.replicate k ' ' ++ rest) = tokensFrom [] rest := by
  induction k with
  | zero => rfl
  | succ k ih =>
    simp only [List.replicate_succ, List.cons_append, tokensFrom, show isSeparator ' ' = true by decide, if_true,
      List.isEmpty_nil]
    exact ih

/-- The tokens of a line are its mnemonic and its operands. -/
theorem tokensFrom_lineText {name : List Char} (hn : name.any isSeparator = false) {k : Nat} {toks : List (List Char)}
    (hk : toks ≠ [] → 0 < k) (h : ∀ t ∈ toks, (∀ ch ∈ t, isSeparator ch = false) ∧ t ≠ []) :
    tokensFrom [] (lineText name k toks) = ('r' :: 's' :: 'b' :: '.' :: name) :: toks := by
  have hm : ∀ ch ∈ 'r' :: 's' :: 'b' :: '.' :: name, isSeparator ch = false := by
    simp only [List.mem_cons]
    rintro ch (rfl | rfl | rfl | rfl | h)
    all_goals first | decide | simpa using List.any_eq_false.mp hn _ h
  rw [lineText, tokensFrom_append hm]
  cases k with
  | zero =>
    have : toks = [] := by by_contra hc; exact absurd (hk hc) (by decide)
    subst this
    simp [operandText, tokensFrom]
  | succ k =>
    simp only [List.replicate_succ, List.cons_append, List.nil_append, tokensFrom, show isSeparator ' ' = true by decide,
      if_true, List.isEmpty_cons, Bool.false_eq_true, if_false, tokensFrom_blanks, tokensFrom_operands toks h]

/-- What a line of a mnemonic and numerals assembles to. -/
theorem assembleLine_lineText {name : List Char} (hn : name.any isSeparator = false) {k : Nat}
    {toks : List (List Char)} (hk : toks ≠ [] → 0 < k) (h : ∀ t ∈ toks, ∃ n, IsNumeral t n) :
    assembleLine (lineText name k toks) = (numerals toks).bind (assembleOp name) := by
  rw [assembleLine, tokensFrom_lineText hn hk (fun t ht => isNumeral_token (h t ht).choose_spec)]
  cases h : numerals toks <;> simp [h]

/-! ## What a call returns -/

/-- A call of one request forwards the first response. -/
theorem forwarded_cons (onOk : Response → CallResult) (r : Response) (rest : List Response) :
    forwarded onOk (r :: rest) = some (if r.kind = .ok then onOk r else .failed r) := rfl

/-- A call of one request has not returned before its response. -/
@[simp] theorem forwarded_nil (onOk : Response → CallResult) : forwarded onOk [] = none := rfl

/-- The low byte of a zero-extended byte is the byte. -/
@[simp] theorem low8_zext (b : Byte) : Word.low8 b.zext = b := by
  simp [Word.low8, Byte.zext]

/-- The request of a power action is a WRITE8 or an RMW at the PMIC's runtime address. -/
theorem decodeRequest_powerRequest (c : RsbConfig) (w : PowerWrite) :
    decodeRequest (powerRequest c w) =
      some (match w with
        | .write8 reg val => .rsbWr8 c.pmicRtAddr reg val
        | .rmw reg clr set => .rsbRmw c.pmicRtAddr reg clr set) := by
  cases w <;> simp [powerRequest, write8Request, rmwRequest, decodeRequest]

end Sys2Proof.Machine
end

