-- ==== Sys2Proof/Laws/Memory.lean ====
section
/-! SUPPORT. The device register space: a read after a write, and every memory operation keeps the canonical form. -/

namespace Sys2Proof.Machine

/-- A canonical memory from `lo` up lists no address below `lo`, so it reads there as unlisted. -/
theorem memRead_below {m : Memory} {lo a : Nat} (h : memWfFrom lo m = true) (ha : a < lo) :
    memRead m a = Config.unlistedByte := by
  induction m generalizing lo with
  | nil => rfl
  | cons c rest ih =>
    obtain ⟨k, v⟩ := c
    simp only [memWfFrom, Bool.and_eq_true, decide_eq_true_eq] at h
    obtain ⟨⟨⟨hlo, -⟩, -⟩, hrest⟩ := h
    have hk : k ≠ a := by omega
    simp only [memRead, hk, if_false]
    exact ih hrest (by omega)

/-- The canonical form from `lo` up is one from any lower address up. -/
theorem memWfFrom_mono {m : Memory} {lo lo' : Nat} (h : memWfFrom lo m = true) (hl : lo' ≤ lo) :
    memWfFrom lo' m = true := by
  cases m with
  | nil => rfl
  | cons c rest =>
    obtain ⟨k, v⟩ := c
    simp only [memWfFrom, Bool.and_eq_true, decide_eq_true_eq] at h ⊢
    exact ⟨⟨⟨by omega, h.1.1.2⟩, h.1.2⟩, h.2⟩

/-- What a byte reads after a write: the byte written at its address, the byte of before elsewhere. -/
theorem memRead_memWrite {m : Memory} {lo : Nat} (h : memWfFrom lo m = true) (a a' : Nat) (b : Byte) :
    memRead (memWrite m a b) a' = if a' = a then b else memRead m a' := by
  induction m generalizing lo with
  | nil =>
    by_cases ha : a' = a
    · subst ha
      by_cases hb : b = Config.unlistedByte <;> simp [memWrite, memRead, hb]
    · have ha' : a ≠ a' := Ne.symm ha
      by_cases hb : b = Config.unlistedByte <;> simp [memWrite, memRead, hb, ha, ha']
  | cons c rest ih =>
    obtain ⟨k, v⟩ := c
    have hw := h
    simp only [memWfFrom, Bool.and_eq_true, decide_eq_true_eq] at h
    obtain ⟨⟨⟨-, -⟩, -⟩, hrest⟩ := h
    have hbelow : ∀ {x}, x < k + 1 → memRead rest x = Config.unlistedByte := memRead_below hrest
    unfold memWrite
    split
    · rename_i hak
      by_cases hb : b = Config.unlistedByte <;> by_cases ha : a' = a
      · subst ha
        simp [hb, memRead, Nat.ne_of_gt hak, hbelow (Nat.lt_succ_of_lt hak)]
      · simp [hb, ha]
      · simp [hb, ha, memRead]
      · simp [hb, memRead, Ne.symm ha, ha]
    · split
      · rename_i hak
        subst hak
        by_cases hb : b = Config.unlistedByte <;> by_cases ha : a' = a
        · simp [hb, ha, hbelow (Nat.lt_succ_self a)]
        · simp [hb, ha, memRead, Ne.symm ha]
        · simp [hb, ha, memRead]
        · simp [hb, ha, memRead, Ne.symm ha]
      · rename_i h1 h2
        have hk : k ≠ a := fun e => h2 e.symm
        by_cases hka : k = a'
        · subst hka
          simp [memRead, hk]
        · simp only [memRead, hka, if_false]
          exact ih hrest

/-- A write below 256 keeps the canonical form. -/
theorem memWfFrom_memWrite {m : Memory} {lo a : Nat} (h : memWfFrom lo m = true) (hlo : lo ≤ a) (ha : a < 256) (b : Byte) :
    memWfFrom lo (memWrite m a b) = true := by
  induction m generalizing lo with
  | nil =>
    by_cases hb : b = Config.unlistedByte <;> simp [memWrite, memWfFrom, hb, hlo, ha]
  | cons c rest ih =>
    obtain ⟨k, v⟩ := c
    have hw := h
    simp only [memWfFrom, Bool.and_eq_true, decide_eq_true_eq] at h
    obtain ⟨⟨⟨hk, hk2⟩, hv⟩, hrest⟩ := h
    unfold memWrite
    split
    · by_cases hb : b = Config.unlistedByte
      · simp only [hb, if_true]; exact hw
      · simp [memWfFrom, hb, hlo, ha, hk2, hv, hrest]; omega
    · split
      · rename_i h1 h2
        subst h2
        by_cases hb : b = Config.unlistedByte
        · simp only [hb, if_true]; exact memWfFrom_mono hrest (by omega)
        · simp [memWfFrom, hb, hlo, ha, hrest]
      · rename_i h1 h2
        simp only [memWfFrom, Bool.and_eq_true, decide_eq_true_eq]
        exact ⟨⟨⟨hk, hk2⟩, hv⟩, ih hrest (by omega)⟩

/-- A write at a byte address keeps the canonical form. -/
theorem memWrite_wf {m : Memory} (h : Memory.wf m = true) (a b : Byte) : Memory.wf (memWrite m a.toNat b) = true :=
  memWfFrom_memWrite h (Nat.zero_le _) a.isLt b

/-- `DevWrite` keeps the canonical form. -/
theorem devWrite_wf {m : Memory} (h : Memory.wf m = true) (c : RsbConfig) (a b d : Byte) :
    Memory.wf (devWrite c m a b d) = true := memWrite_wf h a _

/-- The effect of `DevRead` keeps the canonical form. -/
theorem devReadEffect_wf {m : Memory} (h : Memory.wf m = true) (c : RsbConfig) (a : Byte) :
    Memory.wf (devReadEffect c m a) = true := by
  unfold devReadEffect; split
  · exact memWrite_wf h a _
  · exact h

/-- A table of bytes that ends by 256 is in canonical form. -/
theorem memOfTable_wfFrom (a : Nat) (bytes : List Byte) (h : a + bytes.length ≤ 256) :
    memWfFrom a (memOfTable a bytes) = true := by
  induction bytes generalizing a with
  | nil => rfl
  | cons b rest ih =>
    simp only [List.length_cons] at h
    have hr := ih (a + 1) (by omega)
    unfold memOfTable; split
    · exact memWfFrom_mono hr (by omega)
    · rename_i hb
      simp [memWfFrom, hb, hr]; omega

/-- What a table of bytes reads as. -/
theorem memRead_memOfTable (a : Nat) (bytes : List Byte) (i : Nat) :
    memRead (memOfTable a bytes) (a + i) = bytes.getD i Config.unlistedByte := by
  induction bytes generalizing a i with
  | nil => rfl
  | cons b rest ih =>
    cases i with
    | zero =>
      have hlow : ∀ (l : List Byte) (x y : Nat), x < y → memRead (memOfTable y l) x = Config.unlistedByte := by
        intro l
        induction l with
        | nil => intros; rfl
        | cons c l ihl =>
          intro x y hxy
          unfold memOfTable; split
          · exact ihl x (y + 1) (by omega)
          · simp only [memRead, Nat.ne_of_gt hxy, if_false]; exact ihl x (y + 1) (by omega)
      unfold memOfTable; split
      · rename_i hb; simpa [hb] using hlow rest a (a + 1) (Nat.lt_succ_self a)
      · simp [memRead]
    | succ j =>
      have e : a + (j + 1) = (a + 1) + j := by omega
      unfold memOfTable; split
      · rw [e]; simpa using ih (a + 1) j
      · have hne : a ≠ a + (j + 1) := by omega
        simp only [memRead, hne, if_false]
        rw [e]; simpa using ih (a + 1) j

/-- Reset's device register space is in canonical form. -/
theorem reset_memory_wf : Memory.wf State.reset.dev.regs = true := rfl

end Sys2Proof.Machine
end

