-- ==== Sys2Proof/Laws/State.lean ====
section
/-! SUPPORT. One lemma per field per update of State: what each shared update leaves alone, so that no later proof unfolds a
record update. -/

namespace Sys2Proof.Machine

/-! ## consumeDraws -/

@[simp] theorem consumeDraws_cfg (k : Nat) (s : State) : (consumeDraws k s).cfg = s.cfg := rfl
@[simp] theorem consumeDraws_seq (k : Nat) (s : State) : (consumeDraws k s).seq = s.seq := rfl
@[simp] theorem consumeDraws_ctl (k : Nat) (s : State) : (consumeDraws k s).ctl = s.ctl := rfl
@[simp] theorem consumeDraws_dev (k : Nat) (s : State) : (consumeDraws k s).dev = s.dev := rfl
@[simp] theorem consumeDraws_flags (k : Nat) (s : State) : (consumeDraws k s).flags = s.flags := rfl
@[simp] theorem consumeDraws_platformReady (k : Nat) (s : State) : (consumeDraws k s).platformReady = s.platformReady := rfl
@[simp] theorem consumeDraws_request (k : Nat) (s : State) : (consumeDraws k s).request = s.request := rfl
@[simp] theorem consumeDraws_seqResetIn (k : Nat) (s : State) : (consumeDraws k s).seqResetIn = s.seqResetIn := rfl
@[simp] theorem consumeDraws_host (k : Nat) (s : State) : (consumeDraws k s).host = s.host := rfl
@[simp] theorem consumeDraws_turn (k : Nat) (s : State) : (consumeDraws k s).turn = s.turn := rfl
@[simp] theorem consumeDraws_plan (k : Nat) (s : State) : (consumeDraws k s).plan = s.plan := rfl
@[simp] theorem consumeDraws_planIndex (k : Nat) (s : State) : (consumeDraws k s).planIndex = s.planIndex := rfl

@[simp] theorem consumeDraws_script (k : Nat) (s : State) : (consumeDraws k s).script = s.script.drop k := rfl
@[simp] theorem consumeDraws_drawIndex (k : Nat) (s : State) : (consumeDraws k s).drawIndex = s.drawIndex + k := rfl

/-- After `j` draws the k-th coming draw is the (j+k)-th before them. -/
@[simp] theorem peekDraw_consumeDraws (j k : Nat) (s : State) : peekDraw (consumeDraws j s) k = peekDraw s (j + k) := by
  simp [peekDraw, consumeDraws, List.getElem?_drop, Nat.add_assoc]

/-- A draw depends on the script and the counter alone. -/
theorem peekDraw_congr {s t : State} (hs : s.script = t.script) (hd : s.drawIndex = t.drawIndex) (k : Nat) :
    peekDraw s k = peekDraw t k := by
  simp [peekDraw, hs, hd]

/-! ## passTurn -/

@[simp] theorem passTurn_cfg (s : State) : (passTurn s).cfg = s.cfg := by
  unfold passTurn; split <;> rfl

@[simp] theorem passTurn_seq (s : State) : (passTurn s).seq = s.seq := by
  unfold passTurn; split <;> rfl

@[simp] theorem passTurn_ctl (s : State) : (passTurn s).ctl = s.ctl := by
  unfold passTurn; split <;> rfl

@[simp] theorem passTurn_dev (s : State) : (passTurn s).dev = s.dev := by
  unfold passTurn; split <;> rfl

@[simp] theorem passTurn_flags (s : State) : (passTurn s).flags = s.flags := by
  unfold passTurn; split <;> rfl

@[simp] theorem passTurn_platformReady (s : State) : (passTurn s).platformReady = s.platformReady := by
  unfold passTurn; split <;> rfl

@[simp] theorem passTurn_request (s : State) : (passTurn s).request = s.request := by
  unfold passTurn; split <;> rfl

@[simp] theorem passTurn_seqResetIn (s : State) : (passTurn s).seqResetIn = s.seqResetIn := by
  unfold passTurn; split <;> rfl

@[simp] theorem passTurn_host (s : State) : (passTurn s).host = s.host := by
  unfold passTurn; split <;> rfl

@[simp] theorem passTurn_planIndex (s : State) : (passTurn s).planIndex = s.planIndex + 1 := by
  unfold passTurn; split <;> rfl

@[simp] theorem passTurn_script (s : State) : (passTurn s).script = s.script := by
  unfold passTurn; split <;> rfl

@[simp] theorem passTurn_drawIndex (s : State) : (passTurn s).drawIndex = s.drawIndex := by
  unfold passTurn; split <;> rfl

theorem passTurn_planned {s : State} {a : Agent} {rest : List Agent} (h : s.plan = a :: rest) :
    (passTurn s).turn = a ∧ (passTurn s).plan = rest := by
  unfold passTurn; rw [h]; exact ⟨rfl, rfl⟩

/-! ## respond -/

@[simp] theorem respond_cfg (k : RespKind) (c : Word) (d : Byte) (s : State) : (respond k c d s).cfg = s.cfg := rfl
@[simp] theorem respond_ctl (k : RespKind) (c : Word) (d : Byte) (s : State) : (respond k c d s).ctl = s.ctl := rfl
@[simp] theorem respond_dev (k : RespKind) (c : Word) (d : Byte) (s : State) : (respond k c d s).dev = s.dev := rfl
@[simp] theorem respond_flags (k : RespKind) (c : Word) (d : Byte) (s : State) : (respond k c d s).flags = s.flags := rfl
@[simp] theorem respond_platformReady (k : RespKind) (c : Word) (d : Byte) (s : State) : (respond k c d s).platformReady = s.platformReady := rfl
@[simp] theorem respond_request (k : RespKind) (c : Word) (d : Byte) (s : State) : (respond k c d s).request = s.request := rfl
@[simp] theorem respond_seqResetIn (k : RespKind) (c : Word) (d : Byte) (s : State) : (respond k c d s).seqResetIn = s.seqResetIn := rfl
@[simp] theorem respond_host (k : RespKind) (c : Word) (d : Byte) (s : State) : (respond k c d s).host = s.host := rfl
@[simp] theorem respond_turn (k : RespKind) (c : Word) (d : Byte) (s : State) : (respond k c d s).turn = s.turn := rfl
@[simp] theorem respond_plan (k : RespKind) (c : Word) (d : Byte) (s : State) : (respond k c d s).plan = s.plan := rfl
@[simp] theorem respond_planIndex (k : RespKind) (c : Word) (d : Byte) (s : State) : (respond k c d s).planIndex = s.planIndex := rfl
@[simp] theorem respond_script (k : RespKind) (c : Word) (d : Byte) (s : State) : (respond k c d s).script = s.script := rfl
@[simp] theorem respond_drawIndex (k : RespKind) (c : Word) (d : Byte) (s : State) : (respond k c d s).drawIndex = s.drawIndex := rfl

@[simp] theorem respond_seq_phase (k : RespKind) (c : Word) (d : Byte) (s : State) : (respond k c d s).seq.phase = .idle := rfl
@[simp] theorem respond_seq_op (k : RespKind) (c : Word) (d : Byte) (s : State) : (respond k c d s).seq.op = s.seq.op := rfl
@[simp] theorem respond_seq_src (k : RespKind) (c : Word) (d : Byte) (s : State) : (respond k c d s).seq.src = s.seq.src := rfl
@[simp] theorem respond_seq_bus (k : RespKind) (c : Word) (d : Byte) (s : State) : (respond k c d s).seq.bus = s.seq.bus := rfl
@[simp] theorem respond_seq_payload (k : RespKind) (c : Word) (d : Byte) (s : State) : (respond k c d s).seq.payload = s.seq.payload := rfl
@[simp] theorem respond_seq_hw (k : RespKind) (c : Word) (d : Byte) (s : State) : (respond k c d s).seq.hw = s.seq.hw := rfl
@[simp] theorem respond_seq_rt (k : RespKind) (c : Word) (d : Byte) (s : State) : (respond k c d s).seq.rt = s.seq.rt := rfl
@[simp] theorem respond_seq_reg (k : RespKind) (c : Word) (d : Byte) (s : State) : (respond k c d s).seq.reg = s.seq.reg := rfl
@[simp] theorem respond_seq_val (k : RespKind) (c : Word) (d : Byte) (s : State) : (respond k c d s).seq.val = s.seq.val := rfl
@[simp] theorem respond_seq_clr (k : RespKind) (c : Word) (d : Byte) (s : State) : (respond k c d s).seq.clr = s.seq.clr := rfl
@[simp] theorem respond_seq_set (k : RespKind) (c : Word) (d : Byte) (s : State) : (respond k c d s).seq.set = s.seq.set := rfl
@[simp] theorem respond_seq_mprog (k : RespKind) (c : Word) (d : Byte) (s : State) : (respond k c d s).seq.mprog = s.seq.mprog := rfl
@[simp] theorem respond_seq_mpc (k : RespKind) (c : Word) (d : Byte) (s : State) : (respond k c d s).seq.mpc = s.seq.mpc := rfl
@[simp] theorem respond_seq_tries (k : RespKind) (c : Word) (d : Byte) (s : State) : (respond k c d s).seq.tries = 0 := rfl
@[simp] theorem respond_seq_data (k : RespKind) (c : Word) (d : Byte) (s : State) : (respond k c d s).seq.data = s.seq.data := rfl
@[simp] theorem respond_seq_respValid (k : RespKind) (c : Word) (d : Byte) (s : State) : (respond k c d s).seq.respValid = true := rfl
@[simp] theorem respond_seq_respKind (k : RespKind) (c : Word) (d : Byte) (s : State) : (respond k c d s).seq.respKind = k := rfl
@[simp] theorem respond_seq_respCode (k : RespKind) (c : Word) (d : Byte) (s : State) : (respond k c d s).seq.respCode = c := rfl
@[simp] theorem respond_seq_respData (k : RespKind) (c : Word) (d : Byte) (s : State) : (respond k c d s).seq.respData = d := rfl
@[simp] theorem respond_seq_stage (k : RespKind) (c : Word) (d : Byte) (s : State) : (respond k c d s).seq.stage = s.seq.stage := rfl
@[simp] theorem respond_seq_old (k : RespKind) (c : Word) (d : Byte) (s : State) : (respond k c d s).seq.old = s.seq.old := rfl

/-! ## startPart: it changes S alone -/

@[simp] theorem startPart_cfg (p : Part) (s : State) : (startPart p s).cfg = s.cfg := by
  unfold startPart; split <;> rfl

@[simp] theorem startPart_ctl (p : Part) (s : State) : (startPart p s).ctl = s.ctl := by
  unfold startPart; split <;> rfl

@[simp] theorem startPart_dev (p : Part) (s : State) : (startPart p s).dev = s.dev := by
  unfold startPart; split <;> rfl

@[simp] theorem startPart_flags (p : Part) (s : State) : (startPart p s).flags = s.flags := by
  unfold startPart; split <;> rfl

@[simp] theorem startPart_platformReady (p : Part) (s : State) : (startPart p s).platformReady = s.platformReady := by
  unfold startPart; split <;> rfl

@[simp] theorem startPart_request (p : Part) (s : State) : (startPart p s).request = s.request := by
  unfold startPart; split <;> rfl

@[simp] theorem startPart_seqResetIn (p : Part) (s : State) : (startPart p s).seqResetIn = s.seqResetIn := by
  unfold startPart; split <;> rfl

@[simp] theorem startPart_host (p : Part) (s : State) : (startPart p s).host = s.host := by
  unfold startPart; split <;> rfl

@[simp] theorem startPart_turn (p : Part) (s : State) : (startPart p s).turn = s.turn := by
  unfold startPart; split <;> rfl

@[simp] theorem startPart_plan (p : Part) (s : State) : (startPart p s).plan = s.plan := by
  unfold startPart; split <;> rfl

@[simp] theorem startPart_planIndex (p : Part) (s : State) : (startPart p s).planIndex = s.planIndex := by
  unfold startPart; split <;> rfl

@[simp] theorem startPart_script (p : Part) (s : State) : (startPart p s).script = s.script := by
  unfold startPart; split <;> rfl

@[simp] theorem startPart_drawIndex (p : Part) (s : State) : (startPart p s).drawIndex = s.drawIndex := by
  unfold startPart; split <;> rfl


/-! ## partDone: it changes S alone -/

@[simp] theorem partDone_cfg (s : State) : (partDone s).cfg = s.cfg := by
  unfold partDone; split <;> (try split) <;> simp [rmwWritePart, initNextStage]

@[simp] theorem partDone_ctl (s : State) : (partDone s).ctl = s.ctl := by
  unfold partDone; split <;> (try split) <;> simp [rmwWritePart, initNextStage]

@[simp] theorem partDone_dev (s : State) : (partDone s).dev = s.dev := by
  unfold partDone; split <;> (try split) <;> simp [rmwWritePart, initNextStage]

@[simp] theorem partDone_flags (s : State) : (partDone s).flags = s.flags := by
  unfold partDone; split <;> (try split) <;> simp [rmwWritePart, initNextStage]

@[simp] theorem partDone_platformReady (s : State) : (partDone s).platformReady = s.platformReady := by
  unfold partDone; split <;> (try split) <;> simp [rmwWritePart, initNextStage]

@[simp] theorem partDone_request (s : State) : (partDone s).request = s.request := by
  unfold partDone; split <;> (try split) <;> simp [rmwWritePart, initNextStage]

@[simp] theorem partDone_seqResetIn (s : State) : (partDone s).seqResetIn = s.seqResetIn := by
  unfold partDone; split <;> (try split) <;> simp [rmwWritePart, initNextStage]

@[simp] theorem partDone_host (s : State) : (partDone s).host = s.host := by
  unfold partDone; split <;> (try split) <;> simp [rmwWritePart, initNextStage]

@[simp] theorem partDone_turn (s : State) : (partDone s).turn = s.turn := by
  unfold partDone; split <;> (try split) <;> simp [rmwWritePart, initNextStage]

@[simp] theorem partDone_plan (s : State) : (partDone s).plan = s.plan := by
  unfold partDone; split <;> (try split) <;> simp [rmwWritePart, initNextStage]

@[simp] theorem partDone_planIndex (s : State) : (partDone s).planIndex = s.planIndex := by
  unfold partDone; split <;> (try split) <;> simp [rmwWritePart, initNextStage]

@[simp] theorem partDone_script (s : State) : (partDone s).script = s.script := by
  unfold partDone; split <;> (try split) <;> simp [rmwWritePart, initNextStage]

@[simp] theorem partDone_drawIndex (s : State) : (partDone s).drawIndex = s.drawIndex := by
  unfold partDone; split <;> (try split) <;> simp [rmwWritePart, initNextStage]


/-! ## advance: it changes S alone -/

@[simp] theorem advance_cfg (s : State) : (advance s).cfg = s.cfg := by
  unfold advance; split <;> simp

@[simp] theorem advance_ctl (s : State) : (advance s).ctl = s.ctl := by
  unfold advance; split <;> simp

@[simp] theorem advance_dev (s : State) : (advance s).dev = s.dev := by
  unfold advance; split <;> simp

@[simp] theorem advance_flags (s : State) : (advance s).flags = s.flags := by
  unfold advance; split <;> simp

@[simp] theorem advance_platformReady (s : State) : (advance s).platformReady = s.platformReady := by
  unfold advance; split <;> simp

@[simp] theorem advance_request (s : State) : (advance s).request = s.request := by
  unfold advance; split <;> simp

@[simp] theorem advance_seqResetIn (s : State) : (advance s).seqResetIn = s.seqResetIn := by
  unfold advance; split <;> simp

@[simp] theorem advance_host (s : State) : (advance s).host = s.host := by
  unfold advance; split <;> simp

@[simp] theorem advance_turn (s : State) : (advance s).turn = s.turn := by
  unfold advance; split <;> simp

@[simp] theorem advance_plan (s : State) : (advance s).plan = s.plan := by
  unfold advance; split <;> simp

@[simp] theorem advance_planIndex (s : State) : (advance s).planIndex = s.planIndex := by
  unfold advance; split <;> simp

@[simp] theorem advance_script (s : State) : (advance s).script = s.script := by
  unfold advance; split <;> simp

@[simp] theorem advance_drawIndex (s : State) : (advance s).drawIndex = s.drawIndex := by
  unfold advance; split <;> simp

/-! ## Register words -/

@[simp] theorem regGet_regSet_same (f : RegFile) (r : Reg) (v : Word) : regGet (regSet f r v) r = v := by
  cases r <;> rfl

theorem regGet_regSet_other (f : RegFile) {r r' : Reg} (v : Word) (h : r' ≠ r) : regGet (regSet f r v) r' = regGet f r' := by
  cases r <;> cases r' <;> first | rfl | exact absurd rfl h

end Sys2Proof.Machine
end

