-- ==== Sys2Proof/Laws/Ops.lean ====
section
/-! SUPPORT. What each shared operation can do, said once: if it answers a next state, then one of the named cases holds. Later
proofs cite these lemmas instead of unfolding the operation. -/

namespace Sys2Proof.Machine

/-! ## Going on from an outcome -/

theorem onNext_eq_next {o : Host.Outcome State Fault Refusal} {f : State → State} {t : State} :
    onNext o f = .next t ↔ ∃ u, o = .next u ∧ f u = t := by
  cases o <;> simp [onNext]

@[simp] theorem onNext_next (s : State) (f : State → State) : onNext (.next s) f = .next (f s) := rfl

/-! ## Offsets -/

/-- The register found at an offset stands at that offset. -/
theorem offsetOf_of_regAt {c : RsbConfig} {off : Word} {r : Reg} (h : regAt c off = some r) : offsetOf c r = off := by
  have := List.find?_some h
  simpa using this

/-- Under a well-formed configuration each register is found at its own offset. -/
theorem regAt_offsetOf {c : RsbConfig} (h : c.wf = true) (r : Reg) : regAt c (offsetOf c r) = some r := by
  have hn : c.offsets.Nodup := by
    simp only [RsbConfig.wf, RsbConfig.offsetsOk, Bool.and_eq_true, decide_eq_true_eq] at h
    exact h.1.1.2.1
  simp only [RsbConfig.offsets, List.nodup_cons, List.mem_cons, not_or] at hn
  obtain ⟨h0, h1, h2, h3, h4, h5, h6, h7, h8, h9, -⟩ := hn
  cases r <;> simp_all [regAt, Reg.all, offsetOf]

/-! ## Requests -/

/-- A request instruction's meaning, in IDLE and in RUN. -/
theorem acceptWhenIdle_idle {s : State} (h : s.seq.phase = .idle) (op : ReqOp) (q : Seq) (p : Part) :
    acceptWhenIdle op q p s = .next (accept op q p s) := by
  simp [acceptWhenIdle, h]

theorem acceptWhenIdle_run {s : State} (h : s.seq.phase = .run) (op : ReqOp) (q : Seq) (p : Part) :
    acceptWhenIdle op q p s = .next s := by
  simp [acceptWhenIdle, h]

/-- What starting a part leaves in S, the check passed. -/
theorem startPart_ok {p : Part} (h : partOk p = true) (s : State) :
    startPart p s = { s with seq := { s.seq with mprog := prog s.cfg p, mpc := 0, tries := 0 } } := by
  simp [startPart, h]

/-- What starting a part leaves in S, the check failed. -/
theorem startPart_invalid {p : Part} (h : partOk p = false) (s : State) :
    startPart p s = respond .invalidArgument 0 0 s := by
  simp [startPart, h]

/-! ## accept: it changes S, consumes the request and makes nine draws -/

@[simp] theorem accept_cfg (op : ReqOp) (q : Seq) (p : Part) (s : State) : (accept op q p s).cfg = s.cfg := by
  simp [accept]

@[simp] theorem accept_ctl (op : ReqOp) (q : Seq) (p : Part) (s : State) : (accept op q p s).ctl = s.ctl := by
  simp [accept]

@[simp] theorem accept_dev (op : ReqOp) (q : Seq) (p : Part) (s : State) : (accept op q p s).dev = s.dev := by
  simp [accept]

@[simp] theorem accept_flags (op : ReqOp) (q : Seq) (p : Part) (s : State) : (accept op q p s).flags = s.flags := by
  simp [accept]

@[simp] theorem accept_platformReady (op : ReqOp) (q : Seq) (p : Part) (s : State) : (accept op q p s).platformReady = s.platformReady := by
  simp [accept]

@[simp] theorem accept_seqResetIn (op : ReqOp) (q : Seq) (p : Part) (s : State) : (accept op q p s).seqResetIn = s.seqResetIn := by
  simp [accept]

@[simp] theorem accept_host (op : ReqOp) (q : Seq) (p : Part) (s : State) : (accept op q p s).host = s.host := by
  simp [accept]

@[simp] theorem accept_turn (op : ReqOp) (q : Seq) (p : Part) (s : State) : (accept op q p s).turn = s.turn := by
  simp [accept]

@[simp] theorem accept_plan (op : ReqOp) (q : Seq) (p : Part) (s : State) : (accept op q p s).plan = s.plan := by
  simp [accept]

@[simp] theorem accept_planIndex (op : ReqOp) (q : Seq) (p : Part) (s : State) : (accept op q p s).planIndex = s.planIndex := by
  simp [accept]

@[simp] theorem accept_request (op : ReqOp) (q : Seq) (p : Part) (s : State) : (accept op q p s).request = none := by
  simp [accept]

/-! ## Every instruction has a next state -/

theorem acceptWhenIdle_next (op : ReqOp) (q : Seq) (p : Part) (s : State) : ∃ t, acceptWhenIdle op q p s = .next t := by
  unfold acceptWhenIdle; split <;> exact ⟨_, rfl⟩

theorem unsupportedCompletion_next (s : State) : ∃ t, unsupportedCompletion s = .next t := by
  unfold unsupportedCompletion; split <;> exact ⟨_, rfl⟩

theorem exec_next (i : Instr) (s : State) : ∃ t, exec i s = .next t := by
  cases i
  case cmdSrta => simp only [exec, execCmdSrta]; split <;> exact ⟨_, rfl⟩
  case cmdRd8 => simp only [exec, execCmdRd8]; split <;> exact ⟨_, rfl⟩
  case cmdWr8 => simp only [exec, execCmdWr8]; split <;> exact ⟨_, rfl⟩
  case cmdRd16 => exact unsupportedCompletion_next s
  case cmdRd32 => exact unsupportedCompletion_next s
  case cmdWr16 => exact unsupportedCompletion_next s
  case cmdWr32 => exact unsupportedCompletion_next s
  case ctrlSoftRst v => exact ⟨_, rfl⟩
  case ctrlStartTrans v => exact ⟨_, rfl⟩
  case pmcrStart v => exact ⟨_, rfl⟩
  all_goals exact acceptWhenIdle_next _ _ _ s

/-! ## Register accesses -/

/-- A write triggers only at CTRL and PMCR. -/
theorem decodeTrigger_reg {c : RsbConfig} {r : Reg} {v : Word} {i : Instr} (h : decodeTrigger c r v = some i) :
    (r = .ctrl ∧ decodeCtrl c v = some i) ∨ (r = .pmcr ∧ decodePmcr c v = some i) := by
  cases r <;> simp_all [decodeTrigger]

/-- What a CTRL word decodes to. -/
theorem decodeCtrl_cases {c : RsbConfig} {v : Word} {i : Instr} (h : decodeCtrl c v = some i) :
    (startsReset c v = true ∧ i = .ctrlSoftRst v) ∨
      (startsReset c v = false ∧ startsTrans c v = true ∧ i = .ctrlStartTrans v) := by
  unfold decodeCtrl at h
  split at h
  · left; exact ⟨by assumption, by simpa using h.symm⟩
  · rename_i hr
    split at h
    · right; exact ⟨by simpa [startsReset] using hr, by assumption, by simpa using h.symm⟩
    · cases h

/-- What a PMCR word decodes to. -/
theorem decodePmcr_cases {c : RsbConfig} {v : Word} {i : Instr} (h : decodePmcr c v = some i) :
    startsSwitch c v = true ∧ i = .pmcrStart v := by
  unfold decodePmcr at h
  split at h
  · exact ⟨by assumption, by simpa using h.symm⟩
  · cases h

/-- What a register write can do: a CTRL trigger, a PMCR trigger, or a plain store to a register other than STAT. -/
theorem mmioWrite_cases {off v : Word} {s t : State} (h : mmioWrite off v s = .next t) :
    ∃ r, regAt s.cfg off = some r ∧ r ≠ .stat ∧
      ((r = .ctrl ∧ decodeCtrl s.cfg v ≠ none ∧ t = ctrlWrite v s) ∨
        (r = .pmcr ∧ decodePmcr s.cfg v ≠ none ∧ t = pmcrWrite v s) ∨
        (decodeTrigger s.cfg r v = none ∧ t = plainWrite r v s)) := by
  unfold mmioWrite at h
  split at h
  · rename_i r hr
    refine ⟨r, hr, ?_⟩
    have hs : r ≠ .stat := by rintro rfl; simp [writeReg] at h
    refine ⟨hs, ?_⟩
    have h' : (match decodeTrigger s.cfg r v with
        | some i => exec i s
        | none => .next (plainWrite r v s)) = .next t := by
      cases r <;> first | exact h | exact absurd rfl hs
    split at h'
    · rename_i i hi
      rcases decodeTrigger_reg hi with ⟨rfl, hd⟩ | ⟨rfl, hd⟩
      · left
        refine ⟨rfl, by simp [hd], ?_⟩
        rcases decodeCtrl_cases hd with ⟨-, rfl⟩ | ⟨-, -, rfl⟩ <;>
          simpa [exec, execCtrlSoftRst, execCtrlStartTrans] using h'.symm
      · right; left
        refine ⟨rfl, by simp [hd], ?_⟩
        obtain ⟨-, rfl⟩ := decodePmcr_cases hd
        simpa [exec, execPmcrStart] using h'.symm
    · right; right
      exact ⟨by assumption, by simpa using h'.symm⟩
  · cases h

/-- What a register read can do: hand S the register's value, leaving all but flags and draws as it was. -/
theorem mmioRead_cases {off : Word} {use : Word → State → State} {s t : State} (h : mmioRead off use s = .next t) :
    ∃ r, regAt s.cfg off = some r ∧ t = use (readValue r s) (afterRead r s) := by
  unfold mmioRead at h
  split at h
  · rename_i r hr; exact ⟨r, hr, by simpa using h.symm⟩
  · cases h


@[simp] theorem afterRead_cfg (r : Reg) (s : State) : (afterRead r s).cfg = s.cfg := rfl
@[simp] theorem afterRead_seq (r : Reg) (s : State) : (afterRead r s).seq = s.seq := rfl
@[simp] theorem afterRead_ctl (r : Reg) (s : State) : (afterRead r s).ctl = s.ctl := rfl
@[simp] theorem afterRead_dev (r : Reg) (s : State) : (afterRead r s).dev = s.dev := rfl
@[simp] theorem afterRead_platformReady (r : Reg) (s : State) : (afterRead r s).platformReady = s.platformReady := rfl
@[simp] theorem afterRead_request (r : Reg) (s : State) : (afterRead r s).request = s.request := rfl
@[simp] theorem afterRead_seqResetIn (r : Reg) (s : State) : (afterRead r s).seqResetIn = s.seqResetIn := rfl
@[simp] theorem afterRead_host (r : Reg) (s : State) : (afterRead r s).host = s.host := rfl
@[simp] theorem afterRead_turn (r : Reg) (s : State) : (afterRead r s).turn = s.turn := rfl
@[simp] theorem afterRead_plan (r : Reg) (s : State) : (afterRead r s).plan = s.plan := rfl
@[simp] theorem afterRead_planIndex (r : Reg) (s : State) : (afterRead r s).planIndex = s.planIndex := rfl

@[simp] theorem afterRead_flags (r : Reg) (s : State) : (afterRead r s).flags = accessFlags s := rfl

@[simp] theorem ctrlWrite_cfg (v : Word) (s : State) : (ctrlWrite v s).cfg = s.cfg := rfl
@[simp] theorem ctrlWrite_seq (v : Word) (s : State) : (ctrlWrite v s).seq = s.seq := rfl
@[simp] theorem ctrlWrite_dev (v : Word) (s : State) : (ctrlWrite v s).dev = s.dev := rfl
@[simp] theorem ctrlWrite_platformReady (v : Word) (s : State) : (ctrlWrite v s).platformReady = s.platformReady := rfl
@[simp] theorem ctrlWrite_request (v : Word) (s : State) : (ctrlWrite v s).request = s.request := rfl
@[simp] theorem ctrlWrite_seqResetIn (v : Word) (s : State) : (ctrlWrite v s).seqResetIn = s.seqResetIn := rfl
@[simp] theorem ctrlWrite_host (v : Word) (s : State) : (ctrlWrite v s).host = s.host := rfl
@[simp] theorem ctrlWrite_turn (v : Word) (s : State) : (ctrlWrite v s).turn = s.turn := rfl
@[simp] theorem ctrlWrite_plan (v : Word) (s : State) : (ctrlWrite v s).plan = s.plan := rfl
@[simp] theorem ctrlWrite_planIndex (v : Word) (s : State) : (ctrlWrite v s).planIndex = s.planIndex := rfl

@[simp] theorem pmcrWrite_cfg (v : Word) (s : State) : (pmcrWrite v s).cfg = s.cfg := rfl
@[simp] theorem pmcrWrite_seq (v : Word) (s : State) : (pmcrWrite v s).seq = s.seq := rfl
@[simp] theorem pmcrWrite_dev (v : Word) (s : State) : (pmcrWrite v s).dev = s.dev := rfl
@[simp] theorem pmcrWrite_platformReady (v : Word) (s : State) : (pmcrWrite v s).platformReady = s.platformReady := rfl
@[simp] theorem pmcrWrite_request (v : Word) (s : State) : (pmcrWrite v s).request = s.request := rfl
@[simp] theorem pmcrWrite_seqResetIn (v : Word) (s : State) : (pmcrWrite v s).seqResetIn = s.seqResetIn := rfl
@[simp] theorem pmcrWrite_host (v : Word) (s : State) : (pmcrWrite v s).host = s.host := rfl
@[simp] theorem pmcrWrite_turn (v : Word) (s : State) : (pmcrWrite v s).turn = s.turn := rfl
@[simp] theorem pmcrWrite_plan (v : Word) (s : State) : (pmcrWrite v s).plan = s.plan := rfl
@[simp] theorem pmcrWrite_planIndex (v : Word) (s : State) : (pmcrWrite v s).planIndex = s.planIndex := rfl

@[simp] theorem plainWrite_cfg (r : Reg) (v : Word) (s : State) : (plainWrite r v s).cfg = s.cfg := rfl
@[simp] theorem plainWrite_seq (r : Reg) (v : Word) (s : State) : (plainWrite r v s).seq = s.seq := rfl
@[simp] theorem plainWrite_dev (r : Reg) (v : Word) (s : State) : (plainWrite r v s).dev = s.dev := rfl
@[simp] theorem plainWrite_platformReady (r : Reg) (v : Word) (s : State) : (plainWrite r v s).platformReady = s.platformReady := rfl
@[simp] theorem plainWrite_request (r : Reg) (v : Word) (s : State) : (plainWrite r v s).request = s.request := rfl
@[simp] theorem plainWrite_seqResetIn (r : Reg) (v : Word) (s : State) : (plainWrite r v s).seqResetIn = s.seqResetIn := rfl
@[simp] theorem plainWrite_host (r : Reg) (v : Word) (s : State) : (plainWrite r v s).host = s.host := rfl
@[simp] theorem plainWrite_turn (r : Reg) (v : Word) (s : State) : (plainWrite r v s).turn = s.turn := rfl
@[simp] theorem plainWrite_plan (r : Reg) (v : Word) (s : State) : (plainWrite r v s).plan = s.plan := rfl
@[simp] theorem plainWrite_planIndex (r : Reg) (v : Word) (s : State) : (plainWrite r v s).planIndex = s.planIndex := rfl

/-! ## The micro-ops and the agents -/

/-- What a micro-op can do. -/
theorem runMicroOp_cases {m : MicroOp} {s t : State} (h : runMicroOp m s = .next t) :
    (∃ off v u, m = .wr off v ∧ mmioWrite off v s = .next u ∧ t = advance u) ∨
      (∃ off mask r, m = .poll off mask ∧ regAt s.cfg off = some r ∧ t = pollStep mask (readValue r s) (afterRead r s)) ∨
      (∃ r, m = .status ∧ regAt s.cfg s.cfg.offStat = some r ∧ t = statusStep (readValue r s) (afterRead r s)) ∨
      (∃ r, m = .rddata ∧ regAt s.cfg s.cfg.offData = some r ∧ t = dataStep (readValue r s) (afterRead r s)) := by
  cases m with
  | wr off v =>
    obtain ⟨u, hu, rfl⟩ := onNext_eq_next.mp h
    exact .inl ⟨off, v, u, rfl, hu, rfl⟩
  | poll off mask =>
    obtain ⟨r, hr, rfl⟩ := mmioRead_cases h
    exact .inr (.inl ⟨off, mask, r, rfl, hr, rfl⟩)
  | status =>
    obtain ⟨r, hr, rfl⟩ := mmioRead_cases h
    exact .inr (.inr (.inl ⟨r, rfl, hr, rfl⟩))
  | rddata =>
    obtain ⟨r, hr, rfl⟩ := mmioRead_cases h
    exact .inr (.inr (.inr ⟨r, rfl, hr, rfl⟩))

/-- What a step of S can do: obey the reset line, wait, accept a request, or run a micro-op. -/
theorem seqStep_cases {s t : State} (h : seqStep s = .next t) :
    (s.seqResetIn = true ∧ t = seqReset s) ∨
      (s.seqResetIn = false ∧ s.seq.phase = .idle ∧ s.request = none ∧ t = s) ∨
      (s.seqResetIn = false ∧ s.seq.phase = .idle ∧ ∃ r i, s.request = some r ∧ decodeRequest r = some i ∧ exec i s = .next t) ∨
      (s.seqResetIn = false ∧ s.seq.phase = .run ∧ ∃ m, s.seq.mprog[s.seq.mpc]? = some m ∧ runMicroOp m s = .next t) := by
  unfold seqStep at h
  split at h
  · left; exact ⟨by assumption, by simpa using h.symm⟩
  · rename_i hr
    have hr' : s.seqResetIn = false := by simpa using hr
    split at h
    · rename_i hp
      unfold idleStep at h
      split at h
      · right; left; exact ⟨hr', hp, by assumption, by simpa using h.symm⟩
      · rename_i r hq
        split at h
        · rename_i i hi
          right; right; left; exact ⟨hr', hp, r, i, hq, hi, h⟩
        · cases h
    · rename_i hp
      unfold microStep at h
      split at h
      · rename_i m hm
        right; right; right; exact ⟨hr', hp, m, hm, h⟩
      · cases h

/-- What a CMD value decodes to. -/
theorem decodeCommand_cases {c : RsbConfig} {w : Word} {i : Instr} (h : decodeCommand c w = some i) :
    (w = c.cmdSrta.zext ∧ i = .cmdSrta) ∨ (w = c.cmdRd8.zext ∧ i = .cmdRd8) ∨ (w = c.cmdWr8.zext ∧ i = .cmdWr8) ∨
      i = .cmdRd16 ∨ i = .cmdRd32 ∨ i = .cmdWr16 ∨ i = .cmdWr32 := by
  unfold decodeCommand at h
  repeat' split at h
  all_goals simp_all [eq_comm]

/-- What a step of C can do: nothing, or complete the operation in flight. -/
theorem ctlStep_cases {s t : State} (h : ctlStep s = .next t) :
    (s.ctl.busy = .none ∧ t = s) ∨ (s.ctl.busy = .resetting ∧ t = softResetDone s) ∨
      (∃ p, s.ctl.busy = .pmode p ∧ t = modeSwitchDone p s) ∨
      (∃ c sa da d, s.ctl.busy = .trans c sa da d ∧
        ((c = s.cfg.cmdSrta.zext ∧ t = srtaDone sa s) ∨ (c = s.cfg.cmdRd8.zext ∧ t = rd8Done sa da s) ∨
          (c = s.cfg.cmdWr8.zext ∧ t = wr8Done sa da d s) ∨ t = unsupportedDone s)) := by
  unfold ctlStep at h
  split at h
  · left; exact ⟨by assumption, by simpa using h.symm⟩
  · right; left; exact ⟨by assumption, by simpa using h.symm⟩
  · right; right; left; exact ⟨_, by assumption, by simpa using h.symm⟩
  · rename_i c sa da d hb
    right; right; right
    refine ⟨c, sa, da, d, hb, ?_⟩
    split at h
    · rename_i i hi
      rcases decodeCommand_cases hi with ⟨hc, rfl⟩ | ⟨hc, rfl⟩ | ⟨hc, rfl⟩ | rfl | rfl | rfl | rfl
      · left; exact ⟨hc, by simpa [exec, execCmdSrta, hb] using h.symm⟩
      · right; left; exact ⟨hc, by simpa [exec, execCmdRd8, hb] using h.symm⟩
      · right; right; left; exact ⟨hc, by simpa [exec, execCmdWr8, hb] using h.symm⟩
      · right; right; right; simpa [exec, execCmdRd16, unsupportedCompletion, hb] using h.symm
      · right; right; right; simpa [exec, execCmdRd32, unsupportedCompletion, hb] using h.symm
      · right; right; right; simpa [exec, execCmdWr16, unsupportedCompletion, hb] using h.symm
      · right; right; right; simpa [exec, execCmdWr32, unsupportedCompletion, hb] using h.symm
    · right; right; right; simpa using h.symm

/-- A completion reports success only where a device was addressed (40_controller.md R113). -/
theorem addressed_of_reportedStatus {s : State} {addressed : Bool} (h : reportedStatus s addressed = s.cfg.statSuccess) :
    addressed = true := by
  unfold reportedStatus statusDraw at h
  cases addressed with
  | true => rfl
  | false =>
    split at h
    · rename_i hd
      rw [hd.1] at h
      exact absurd h (by simp)
    · rename_i hd
      exact absurd ⟨h, rfl⟩ hd

/-- A completion that reports success has had its effect (40_controller.md R113). -/
theorem hasEffect_of_reportedStatus {s : State} {addressed : Bool}
    (h : reportedStatus s addressed = s.cfg.statSuccess) : hasEffect s addressed = true := by
  simp [hasEffect, effectPerformed, h]

/-- A completion that reports a failure has its effect exactly where the draw says so (40_controller.md R124). -/
theorem hasEffect_of_failure {s : State} {addressed : Bool}
    (h : reportedStatus s addressed ≠ s.cfg.statSuccess) : hasEffect s addressed = peekBool s 1 := by
  simp [hasEffect, effectPerformed, h]

/-- What a step of H can do: nothing, read a response, or present a line. -/
theorem hostStep_cases (s : State) :
    hostStep s = s ∨ (s.host.status = .running ∧ portFree s = true ∧
      ((s.host.awaiting = true ∧ hostStep s = hostReadResponse s) ∨ (s.host.awaiting = false ∧ hostStep s = hostPresent s))) := by
  unfold hostStep
  split
  · exact .inl rfl
  · exact .inl rfl
  · rename_i hst
    split
    · rename_i hp
      right
      refine ⟨hst, hp, ?_⟩
      split
      · left; exact ⟨by assumption, rfl⟩
      · rename_i ha
        right; exact ⟨by simpa using ha, rfl⟩
    · exact .inl rfl

/-- A step is the step of the agent whose turn it is, and then the turn passes. -/
theorem step_cases {s t : State} (h : step s = .next t) :
    s.cfg.wf = true ∧ ∃ u, t = passTurn u ∧
      ((s.turn = .sequencer ∧ seqStep s = .next u) ∨ (s.turn = .controller ∧ ctlStep s = .next u) ∨
        (s.turn = .host ∧ u = hostStep s)) := by
  unfold step at h
  split at h
  · rename_i hw
    obtain ⟨u, hu, rfl⟩ := onNext_eq_next.mp h
    refine ⟨hw, u, rfl, ?_⟩
    unfold agentStep at hu
    split at hu
    · left; exact ⟨by assumption, hu⟩
    · right; left; exact ⟨by assumption, hu⟩
    · right; right; exact ⟨by assumption, by simpa using hu.symm⟩
  · cases h

end Sys2Proof.Machine
end

