-- ==== Sys2Proof/Laws/PerInstr.lean ====
section
/-! SUPPORT. Statements about every instruction as text, made per instruction. `EncodedLength`: an encoding has as many bytes as
its port has (30_encoding.md R90, R95). -/

namespace Sys2Proof.Laws.EncodedLength

/-- The encoding of `i` has its port's number of bytes, under every configuration. -/
def Statement (i : Instr) : Prop := ∀ c : RsbConfig, (encode c i).bytes.length = (encode c i).port.bytes

theorem rsbReset : Statement .rsbReset := fun _ => rfl
theorem rsbSpeed (src bus : Word) : Statement (.rsbSpeed src bus) := fun _ => rfl
theorem rsbModesw (payload : Payload) : Statement (.rsbModesw payload) := fun _ => rfl
theorem rsbSrta (hw : HwAddr) (rt : Byte) : Statement (.rsbSrta hw rt) := fun _ => rfl
theorem rsbRd8 (rt reg : Byte) : Statement (.rsbRd8 rt reg) := fun _ => rfl
theorem rsbWr8 (rt reg val : Byte) : Statement (.rsbWr8 rt reg val) := fun _ => rfl
theorem rsbRmw (rt reg clr set : Byte) : Statement (.rsbRmw rt reg clr set) := fun _ => rfl
theorem rsbInit : Statement .rsbInit := fun _ => rfl
theorem cmdSrta : Statement .cmdSrta := fun _ => rfl
theorem cmdRd8 : Statement .cmdRd8 := fun _ => rfl
theorem cmdRd16 : Statement .cmdRd16 := fun _ => rfl
theorem cmdRd32 : Statement .cmdRd32 := fun _ => rfl
theorem cmdWr8 : Statement .cmdWr8 := fun _ => rfl
theorem cmdWr16 : Statement .cmdWr16 := fun _ => rfl
theorem cmdWr32 : Statement .cmdWr32 := fun _ => rfl
theorem ctrlSoftRst (v : Word) : Statement (.ctrlSoftRst v) := fun _ => rfl
theorem ctrlStartTrans (v : Word) : Statement (.ctrlStartTrans v) := fun _ => rfl
theorem pmcrStart (v : Word) : Statement (.pmcrStart v) := fun _ => rfl

end Sys2Proof.Laws.EncodedLength
end

