-- ==== Sys2Proof/Tests/Slice0.lean ====
section
/-! SUPPORT. Small tests with expected results from spec/ (95_test_vectors.md and the rules' examples), and for every statement
with hypotheses a witness: a concrete state and operands that meet them. -/

namespace Sys2Proof.Tests

open Sys2Proof.Machine

/-! ## Helpers -/

/-- Does an outcome go on, with a state that passes the check? -/
def nextWith (o : Host.Outcome State Fault Refusal) (p : State → Bool) : Bool :=
  match o with
  | .next t => p t
  | .fault _ | .refused _ => false

theorem nextWith_iff {o : Host.Outcome State Fault Refusal} {p : State → Bool} (h : nextWith o p = true) :
    ∃ t, o = .next t ∧ p t = true := by
  cases o with
  | next t => exact ⟨t, rfl, h⟩
  | fault e => cases h
  | refused e => cases h

/-- The default configuration with T = 3, the read-clear register at 0x10 and register 0x11 volatile. -/
def cfg3 : RsbConfig :=
  { RsbConfig.default with
    pollMaxTries := 3, scratchBase := 0x20#8, devVolatile := [0x11#8], devReadClear := 0x10#8, errnoTimeout := 0#32
    errnoInvalid := 0#32 }

/-- S in IDLE with every latch 0. -/
def idleSeq : Seq :=
  { phase := .idle, op := .reset, src := 0, bus := 0, payload := 0, hw := 0, rt := 0, reg := 0, val := 0, clr := 0, set := 0
    mprog := [], mpc := 0, tries := 0, data := 0, respValid := false, respKind := .ok, respCode := 0, respData := 0
    stage := 0, old := 0 }

/-- Every register word 0. -/
def zeroRegs : RegFile :=
  { ctrl := 0, ccr := 0, inte := 0, stat := 0, daddr := 0, dlen := 0, data := 0, lcr := 0, pmcr := 0, cmd := 0, saddr := 0 }

/-- After a bring-up (95_test_vectors.md P2's start): the controller reset, the device in RSB mode at 0x2D, 0x5A at 0x21. -/
def up : State :=
  { cfg := cfg3, seq := idleSeq, ctl := { regs := zeroRegs, busy := .none, wasReset := true }
    dev := { mode := .rsb, hw := 0x3A3#12, rt := some 0x2D#8, regs := [(0x10, 0x77#8), (0x21, 0x5A#8)] }
    flags := { notReady := false, notReset := false, overlap := false, badCmd := false }
    platformReady := true, request := none, seqResetIn := false
    host := { program := [], awaiting := false, status := .running, received := [] }
    turn := .sequencer, plan := [], planIndex := 0, script := [], drawIndex := 0 }

/-- S running this micro-program of operation `op` at position `pc`. -/
def running (op : ReqOp) (mprog : List MicroOp) (pc : Nat) (s : State) : State :=
  { s with seq := { s.seq with phase := .run, op := op, mprog := mprog, mpc := pc } }

/-- The controller with this operation in flight. -/
def busyWith (b : Busy) (s : State) : State := { s with ctl := { s.ctl with busy := b } }

/-- C's turn, with these coming draws. -/
def ctlTurn (draws : List Word) (s : State) : State := { s with turn := .controller, script := draws }

/-- A request at the port. -/
def asking (r : Request) (s : State) : State := { s with request := some r }

/-- The device in I2C mode with no runtime address, the controller never reset (95_test_vectors.md, the common start state). -/
def coldStart : State :=
  { up with
    ctl := { up.ctl with wasReset := false }
    dev := { up.dev with mode := .i2c, rt := none } }

/-! ## Well-formedness smoke tests -/

theorem test_wf_default : RsbConfig.default.wf = true := by decide
theorem test_wf_fields_apart : RsbConfig.default.fieldsApart = true := by decide
theorem test_wf_equal_offsets : { RsbConfig.default with offCcr := 0x00#32 }.wf = false := by decide
theorem test_wf_unaligned_offset : { RsbConfig.default with offSaddr := 0x31#32 }.offsetsOk = false := by decide
theorem test_wf_unaligned_base : { RsbConfig.default with rsbBase := 0x01F03402#32 }.wf = false := by decide
theorem test_wf_two_bit_mask : { RsbConfig.default with pmcrStart := 0xC0000000#32 }.wf = false := by decide
theorem test_wf_same_triggers : { RsbConfig.default with ctrlStartTrans := 0x1#32 }.wf = false := by decide
theorem test_wf_same_opcodes : { RsbConfig.default with cmdWr8 := 0xE8#8 }.wf = false := by decide
theorem test_wf_zero_success : { RsbConfig.default with statSuccess := 0#32 }.wf = false := by decide
theorem test_wf_zero_budget : { RsbConfig.default with pollMaxTries := 0 }.wf = false := by decide
theorem test_wf_fields_overlap : { RsbConfig.default with saddrRtaShift := 8 }.fieldsApart = false := by decide
theorem test_wf_soft_rst : Instr.wellFormed RsbConfig.default (.ctrlSoftRst 0x80#32) = false := by decide
theorem test_wf_start : Instr.wellFormed RsbConfig.default (.ctrlStartTrans 0x40#32) = false := by decide
theorem test_wf_start_both : Instr.wellFormed RsbConfig.default (.ctrlStartTrans 0x81#32) = false := by decide
theorem test_wf_pmcr : Instr.wellFormed RsbConfig.default (.pmcrStart 0x007C3E00#32) = false := by decide
theorem test_illformed_config_refused :
    step { up with cfg := { cfg3 with pollMaxTries := 0 } } = .refused .illFormedConfig := rfl

/-! ## Decoding: every constructor from bytes written out from 30_encoding.md R80, R89, R91 -/

theorem test_decode_reset : decode RsbConfig.default .request [0x00, 0, 0, 0, 0, 0, 0, 0, 0, 0, 0] = .ok .rsbReset := by decide
/-- 24000000 = 0x016E3600, 400000 = 0x00061A80. -/
theorem test_decode_speed :
    decode RsbConfig.default .request [0x01, 0x00, 0x36, 0x6E, 0x01, 0x80, 0x1A, 0x06, 0x00, 0, 0]
      = .ok (.rsbSpeed 24000000#32 400000#32) := by decide
/-- V5: a0 = 0xFF7C3E00, its top byte ignored. -/
theorem test_decode_modesw :
    decode RsbConfig.default .request [0x02, 0x00, 0x3E, 0x7C, 0xFF, 0, 0, 0, 0, 0, 0] = .ok (.rsbModesw 0x7C3E00#24) := by
  decide
/-- V5: a0 = 0x0000F3A3, bits 31..12 ignored. -/
theorem test_decode_srta :
    decode RsbConfig.default .request [0x03, 0xA3, 0xF3, 0, 0, 0, 0, 0, 0, 0x2D, 0] = .ok (.rsbSrta 0x3A3#12 0x2D#8) := by decide
theorem test_decode_rd8 :
    decode RsbConfig.default .request [0x04, 0, 0, 0, 0, 0, 0, 0, 0, 0x2D, 0x21] = .ok (.rsbRd8 0x2D#8 0x21#8) := by decide
theorem test_decode_wr8 :
    decode RsbConfig.default .request [0x05, 0, 0, 0, 0, 0xA3, 0, 0, 0, 0x2D, 0x21]
      = .ok (.rsbWr8 0x2D#8 0x21#8 0xA3#8) := by decide
theorem test_decode_rmw :
    decode RsbConfig.default .request [0x06, 0x0F, 0, 0, 0, 0x03, 0, 0, 0, 0x2D, 0x21]
      = .ok (.rsbRmw 0x2D#8 0x21#8 0x0F#8 0x03#8) := by decide
theorem test_decode_init : decode RsbConfig.default .request [0x07, 0, 0, 0, 0, 0, 0, 0, 0, 0, 0] = .ok .rsbInit := by decide
theorem test_decode_reserved_op :
    decode RsbConfig.default .request [0x08, 0, 0, 0, 0, 0, 0, 0, 0, 0, 0] = .error (.reservedOp 0x8#4) := by decide
theorem test_decode_cmd_srta : decode RsbConfig.default .cmd [0xE8, 0, 0, 0] = .ok .cmdSrta := by decide
theorem test_decode_cmd_rd8 : decode RsbConfig.default .cmd [0x8B, 0, 0, 0] = .ok .cmdRd8 := by decide
theorem test_decode_cmd_rd16 : decode RsbConfig.default .cmd [0x9C, 0, 0, 0] = .ok .cmdRd16 := by decide
theorem test_decode_cmd_rd32 : decode RsbConfig.default .cmd [0xA6, 0, 0, 0] = .ok .cmdRd32 := by decide
theorem test_decode_cmd_wr8 : decode RsbConfig.default .cmd [0x4E, 0, 0, 0] = .ok .cmdWr8 := by decide
theorem test_decode_cmd_wr16 : decode RsbConfig.default .cmd [0x59, 0, 0, 0] = .ok .cmdWr16 := by decide
theorem test_decode_cmd_wr32 : decode RsbConfig.default .cmd [0x63, 0, 0, 0] = .ok .cmdWr32 := by decide
theorem test_decode_cmd_reserved :
    decode RsbConfig.default .cmd [0x8B, 0x01, 0, 0] = .error (.reservedCommand 0x018B#32) := by decide
theorem test_decode_soft_rst : decode RsbConfig.default .ctrl [0x01, 0, 0, 0] = .ok (.ctrlSoftRst 0x1#32) := by decide
theorem test_decode_start : decode RsbConfig.default .ctrl [0x80, 0, 0, 0] = .ok (.ctrlStartTrans 0x80#32) := by decide
theorem test_decode_pmcr_start :
    decode RsbConfig.default .pmcr [0x00, 0x3E, 0x7C, 0x80] = .ok (.pmcrStart 0x807C3E00#32) := by decide
theorem test_decode_no_trigger : decode RsbConfig.default .ctrl [0x02, 0, 0, 0] = .error (.noTrigger .ctrl 0x2#32) := by decide

/-- The opcode table's rows, each word with the bits the table gives it; a CTRL.SOFT_RST row counted as one byte reads as
the request of the same word (log 17). -/
theorem test_table_words :
    [(8, 0), (8, 1), (8, 4), (8, 7), (32, 0xE8), (32, 0x8B), (32, 0x63), (32, 0x1), (32, 0x80), (8, 0x80), (32, 0x80000000)].map
        (fun p => decodeTableWord p.1 p.2)
      = [some .rsbReset, some (.rsbSpeed 0 0), some (.rsbRd8 0 0), some .rsbInit, some .cmdSrta, some .cmdRd8, some .cmdWr32,
        some (.ctrlSoftRst 1#32), some (.ctrlStartTrans 0x80#32), some (.ctrlStartTrans 0x80#32),
        some (.pmcrStart 0x80000000#32)] := by decide

/-! ## Fetching from reset -/

theorem test_fetch_request :
    nextWith (step (State.reset.withFetchWord 8 4)) (fun t => t.seq.phase == .run && t.seq.op == .read8) = true := by decide
theorem test_fetch_command :
    nextWith (step (State.reset.withFetchWord 32 0x9C)) (fun t => t.ctl.busy == .none) = true := by decide
theorem test_fetch_trigger :
    nextWith (step (State.reset.withFetchWord 32 0x80000000)) (fun t => t.ctl.busy == .pmode 0#24) = true := by decide

/-! ## One step of each instruction -/

/-- R160: the micro-program of a soft reset. -/
theorem test_reset :
    nextWith (exec .rsbReset up) (fun t => t.seq.mprog == [.wr 0x00#32 0x1#32, .poll 0x00#32 0x1#32]) = true := by decide
/-- V1: 24 MHz / 3 MHz. -/
theorem test_speed :
    nextWith (exec (.rsbSpeed 24000000#32 3000000#32) up) (fun t => t.seq.mprog == [.wr 0x04#32 0x103#32]) = true := by decide
/-- V1: 24000000 / 1 spills past the divider field. -/
theorem test_speed_no_clamp :
    nextWith (exec (.rsbSpeed 24000000#32 1#32) up) (fun t => t.seq.mprog == [.wr 0x04#32 0x00B71BFF#32]) = true := by decide
/-- V1, C8: 24 MHz / 16 MHz is answered in the acceptance step. -/
theorem test_speed_invalid :
    nextWith (step (asking ⟨1, 24000000#32, 16000000#32, 0, 0⟩ up))
      (fun t => t.seq.phase == .idle && t.seq.respKind == .invalidArgument && t.seq.respValid) = true := by decide
/-- V5: payload 0xFFFFFF. -/
theorem test_modesw :
    nextWith (exec (.rsbModesw 0xFFFFFF#24) up)
      (fun t => t.seq.mprog == [.wr 0x28#32 0x80FFFFFF#32, .poll 0x28#32 0x80000000#32]) = true := by decide
/-- V5: hw 0xFFF, rt 0xFF. -/
theorem test_srta :
    nextWith (exec (.rsbSrta 0xFFF#12 0xFF#8) up) (fun t => t.seq.mprog[0]? == some (.wr 0x30#32 0x00FF0FFF#32)) = true := by
  decide
/-- V6: rsb.rd8 0x2D, 0x21. -/
theorem test_rd8 :
    nextWith (step (asking ⟨4, 0, 0, 0x2D#8, 0x21#8⟩ up)) (fun t => t.seq.mprog ==
      [.wr 0x2C#32 0x8B#32, .wr 0x30#32 0x002D0000#32, .wr 0x10#32 0x21#32, .wr 0x00#32 0x80#32, .poll 0x00#32 0x80#32, .status,
        .rddata]) = true := by decide
/-- R181's example. -/
theorem test_wr8 :
    nextWith (exec (.rsbWr8 0x2D#8 0x21#8 0xA3#8) up) (fun t => t.seq.mprog[3]? == some (.wr 0x1C#32 0xA3#32)) = true := by decide
/-- V6: accepted at stage 0 with READ8's micro-program. -/
theorem test_rmw :
    nextWith (step (asking ⟨6, 0x0F#32, 0x03#32, 0x2D#8, 0x21#8⟩ up))
      (fun t => t.seq.stage == 0 && t.seq.mprog == prog cfg3 (.read8 0x2D#8 0x21#8) && t.seq.clr == 0x0F#8) = true := by decide
/-- P5: after the read part the write part carries 0xA3. -/
theorem test_rmw_write_part :
    nextWith (seqStep (running .rmw [.rddata] 0
        { up with
          seq := { idleSeq with clr := 0x0F#8, set := 0x03#8 }
          ctl := { up.ctl with regs := { zeroRegs with data := 0xDEADBEAA#32 } } }))
      (fun t => t.seq.stage == 1 && t.seq.old == 0xAA#8 && t.seq.mprog[3]? == some (.wr 0x1C#32 0xA3#32)) = true := by decide
/-- V6: INIT starts with the soft reset. -/
theorem test_init :
    nextWith (step (asking ⟨7, 0, 0, 0, 0⟩ up)) (fun t => t.seq.stage == 0 && t.seq.mprog == prog cfg3 .reset) = true := by decide
/-- R201, row 3: the stage after the reset programs 0x11D. -/
theorem test_init_stage :
    nextWith (seqStep (running .init (prog cfg3 .reset) 1 { up with script := [0xFFFFFFFF#32] }))
      (fun t => t.seq.stage == 1 && t.seq.mprog == [.wr 0x04#32 0x11D#32]) = true := by decide
/-- V7: CTRL <- 1 puts a soft reset in flight, and CTRL then reads bit 0 = 1. -/
theorem test_soft_rst :
    nextWith (exec (.ctrlSoftRst 0x1#32) { up with script := [0#32] })
      (fun t => t.ctl.busy == .resetting && (ctrlRead t).getLsbD 0) = true := by decide
/-- V7: both trigger bits overlap. -/
theorem test_soft_rst_both : nextWith (exec (.ctrlSoftRst 0x81#32) up) (fun t => t.flags.overlap) = true := by decide
/-- R112's example, with the flags of V7 for a controller never reset. -/
theorem test_start :
    nextWith (exec (.ctrlStartTrans 0x80#32)
        { coldStart with
          ctl := { coldStart.ctl with regs := { zeroRegs with cmd := 0x8B#32, saddr := 0x002D0000#32, daddr := 0x21#32 } } })
      (fun t => t.ctl.busy == .trans 0x8B#32 0x002D0000#32 0x21#32 0#32 && t.flags.notReset && !t.flags.badCmd) = true := by
  decide
/-- V7: CMD = 0x9C sets F.bad_cmd. -/
theorem test_start_bad_cmd :
    nextWith (exec (.ctrlStartTrans 0x80#32) { up with ctl := { up.ctl with regs := { zeroRegs with cmd := 0x9C#32 } } })
      (fun t => t.flags.badCmd) = true := by decide
/-- R115's example. -/
theorem test_pmcr_start :
    nextWith (exec (.pmcrStart 0x807C3E00#32) up) (fun t => t.ctl.busy == .pmode 0x7C3E00#24) = true := by decide
/-- V7: SRTA of 0x3A3 with STAT drawn 1. -/
theorem test_cmd_srta :
    nextWith (step (ctlTurn [0x1#32, 0#32] (busyWith (.trans 0xE8#32 0x003103A3#32 0 0) up)))
      (fun t => t.dev.rt == some 0x31#8 && t.ctl.regs.stat == 0x1#32) = true := by decide
/-- V7: SRTA of another hardware address never reports success; its effect is not drawn. -/
theorem test_cmd_srta_no_match :
    nextWith (step (ctlTurn [0x1#32, 0#32] (busyWith (.trans 0xE8#32 0x002D0123#32 0 0) up)))
      (fun t => t.dev == up.dev && t.ctl.regs.stat != 0x1#32) = true := by decide
/-- V7: RD8 of 0x21 with success, DATA[31:8] drawn. -/
theorem test_cmd_rd8 :
    nextWith (step (ctlTurn [0x1#32, 0#32, 0xABCDEF99#32, 0#32] (busyWith (.trans 0x8B#32 0x002D0000#32 0x21#32 0) up)))
      (fun t => t.ctl.regs.data == 0xABCDEF5A#32 && t.dev == up.dev) = true := by decide
/-- V7: RD8 of the read-clear register clears it; its byte is a draw. -/
theorem test_cmd_rd8_read_clear :
    nextWith (step (ctlTurn [0x1#32, 0#32, 0#32, 0x44#32] (busyWith (.trans 0x8B#32 0x002D0000#32 0x10#32 0) up)))
      (fun t => t.ctl.regs.data == 0x44#32 && memRead t.dev.regs 0x10 == 0) = true := by decide
/-- V7: WR8 with success. -/
theorem test_cmd_wr8 :
    nextWith (step (ctlTurn [0x1#32, 0#32, 0#32] (busyWith (.trans 0x4E#32 0x002D0000#32 0x21#32 0xA3#32) up)))
      (fun t => t.dev.regs == [(0x10, 0x77#8), (0x21, 0xA3#8)]) = true := by decide
/-- V7: WR8 with STAT 5 and the effect not drawn. -/
theorem test_cmd_wr8_failed :
    nextWith (step (ctlTurn [0x5#32, 0#32, 0#32] (busyWith (.trans 0x4E#32 0x002D0000#32 0x21#32 0xA3#32) up)))
      (fun t => t.dev == up.dev && t.ctl.regs.stat == 0x5#32) = true := by decide
/-- R114: STAT and DATA are the draws, the runtime address stays. -/
theorem test_cmd_rd16 :
    nextWith (exec .cmdRd16 (ctlTurn [0x7#32, 0x9#32] (busyWith (.trans 0x9C#32 0 0 0) up)))
      (fun t => t.ctl.regs.stat == 0x7#32 && t.ctl.regs.data == 0x9#32 && t.dev.rt == some 0x2D#8) = true := by decide
theorem test_cmd_rd32 :
    nextWith (exec .cmdRd32 (ctlTurn [0x7#32, 0x9#32] (busyWith (.trans 0xA6#32 0 0 0) up)))
      (fun t => t.ctl.regs.stat == 0x7#32 && t.ctl.busy == .none) = true := by decide
theorem test_cmd_wr16 :
    nextWith (exec .cmdWr16 (ctlTurn [0x7#32, 0x9#32] (busyWith (.trans 0x59#32 0 0 0) up)))
      (fun t => t.ctl.regs.data == 0x9#32 && t.ctl.busy == .none) = true := by decide
theorem test_cmd_wr32 :
    nextWith (exec .cmdWr32 (ctlTurn [0x7#32, 0x9#32] (busyWith (.trans 0x63#32 0 0 0) up)))
      (fun t => t.ctl.regs.stat == 0x7#32 && t.dev.mode == .rsb) = true := by decide

/-! ## The engine and the other agents -/

/-- V2: T = 3, the third read still set. -/
theorem test_poll_timeout :
    nextWith (seqStep (busyWith .resetting (running .reset (prog cfg3 .reset) 1
        { up with seq := { idleSeq with tries := 2 }, script := [0#32] })))
      (fun t => t.seq.respKind == .timeout && t.seq.respValid && t.seq.tries == 0) = true := by decide
/-- V2: clear at the T-th read is success. -/
theorem test_poll_last_read :
    nextWith (seqStep (running .reset (prog cfg3 .reset) 1 { up with seq := { idleSeq with tries := 2 }, script := [0x7E#32] }))
      (fun t => t.seq.respKind == .ok && t.seq.respValid && t.seq.phase == .idle) = true := by decide
/-- V3: status 0 is a failure. -/
theorem test_status_zero :
    nextWith (seqStep (running .read8 (prog cfg3 (.read8 0 0)) 5 up))
      (fun t => t.seq.respKind == .hwStatus && t.seq.respCode == 0 && t.seq.respValid) = true := by decide
/-- V7: PMODE(0x7C3E00) received in I2C mode. -/
theorem test_mode_switch :
    nextWith (step (ctlTurn [0x1#32, 0#32] (busyWith (.pmode 0x7C3E00#24) coldStart)))
      (fun t => t.dev.mode == .rsb && t.dev.rt == none) = true := by decide
/-- V7: PMODE(0x123400) received is DevWrite(0x34, 0x12). -/
theorem test_mode_switch_other :
    nextWith (step (ctlTurn [0x1#32, 0#32] (busyWith (.pmode 0x123400#24) coldStart)))
      (fun t => t.dev.mode == .i2c && memRead t.dev.regs 0x34 == 0x12#8) = true := by decide
/-- V7: an access before the platform is ready. -/
theorem test_not_ready :
    nextWith (seqStep (running .reset (prog cfg3 .reset) 0 { up with platformReady := false })) (fun t => t.flags.notReady)
      = true := by decide
/-- R211: slot 11 is one request, slot 12 none. -/
theorem test_scratch_out_of_range : clientProgram cfg3 (.readData 12) = .error .outOfRange := by decide
/-- V3: status 0x102 as an integer. -/
theorem test_integer_form : responseInt cfg3 .hwStatus 0x102#32 0 = 0xFFFFFEFE#32 := by decide

/-! ## Witnesses: for each statement with hypotheses, states and operands that meet them -/

/-- A run whose end passes the check. -/
theorem reaches_iff {n : Nat} {s : State} {p : State → Bool} (h : nextWith (Host.Core.run Sys2Proof.core n s) p = true) :
    ∃ t, Reaches n s t ∧ p t = true := nextWith_iff h

/-- S at the POLL of this operation in flight, the first of a part's micro-program. -/
def polling (b : Busy) (op : ReqOp) (p : Part) (pc : Nat) : State := busyWith b (running op (prog cfg3 p) pc up)

/-- READ8's request (95_test_vectors.md V6). -/
def rd8Req : Request := ⟨4, 0, 0, 0x2D#8, 0x21#8⟩

/-- The turns of an operation, S's but where C is named. -/
def turns (s : State) (plan : List Agent) : State := { s with plan := plan }

abbrev sq : Agent := .sequencer
abbrev ct : Agent := .controller

theorem up_sysInv : SysInv up where
  cfgWf := by decide
  memWf := by decide
  position := by decide
  running := by decide
  triesBelow := by decide
  triesPolling := by decide
  stageBound := by decide
  codeZero := by decide
  codeFailure := by decide
  dataZero := by decide

/-- S running a READ8, just accepted. -/
def rd8Started : State := running .read8 (prog cfg3 (.read8 0 0)) 0 up

theorem rd8Started_sysInv : SysInv rd8Started where
  cfgWf := by decide
  memWf := by decide
  position := by decide
  running := fun _ => ⟨rfl, by decide, by decide, rfl⟩
  triesBelow := by decide
  triesPolling := by decide
  stageBound := by decide
  codeZero := by decide
  codeFailure := by decide
  dataZero := by decide

/-- S running an RMW's read part, at its STATUS micro-op. -/
def rmwAtStatus : State := running .rmw (prog cfg3 (.read8 0 0)) 5 up

theorem atRequest_rd8 : AtRequest rd8Req (asking rd8Req up) := ⟨by decide, rfl, rfl, rfl⟩

theorem witness_DecodeEncodeAgree : RsbConfig.default.wf = true ∧ Instr.wellFormed RsbConfig.default (.pmcrStart 0x807C3E00#32) = true ∧
    Instr.wellFormed RsbConfig.default (.ctrlSoftRst 0x81#32) = true ∧
    Instr.wellFormed RsbConfig.default (.ctrlStartTrans 0x80#32) = true := by decide
theorem witness_ReservedRequestRefused :
    (asking ⟨8, 0, 0, 0, 0⟩ up).turn = .sequencer ∧ AtRequest ⟨8, 0, 0, 0, 0⟩ (asking ⟨8, 0, 0, 0, 0⟩ up) ∧
      step (asking ⟨8, 0, 0, 0, 0⟩ up) = .refused (.reservedRequest 8) := ⟨rfl, ⟨by decide, rfl, rfl, rfl⟩, rfl⟩
theorem witness_ReservedRequestRefused_accepted :
    AtRequest ⟨7, 0, 0, 0, 0⟩ (asking ⟨7, 0, 0, 0, 0⟩ up) ∧ (7#4).toNat < 8 := ⟨⟨by decide, rfl, rfl, rfl⟩, by decide⟩
theorem witness_StepRunsDecodedInstruction_request :
    (asking rd8Req up).turn = .sequencer ∧ AtRequest rd8Req (asking rd8Req up) ∧
      decodeRequest rd8Req = some (.rsbRd8 0x2D#8 0x21#8) := ⟨rfl, atRequest_rd8, by decide⟩
theorem witness_StepRunsDecodedInstruction_trigger :
    (polling .none .reset .reset 0).turn = .sequencer ∧ AtMicroOp (.wr 0x00#32 0x1#32) (polling .none .reset .reset 0) ∧
      regAt cfg3 0x00#32 = some .ctrl ∧
      decodeTrigger cfg3 .ctrl 0x1#32 = some (.ctrlSoftRst 0x1#32) := ⟨rfl, ⟨by decide, rfl, rfl, rfl⟩, by decide, by decide⟩
theorem witness_StepRunsDecodedInstruction_command :
    up.cfg.wf = true ∧ (ctlTurn [] (busyWith (.trans 0xE8#32 0 0 0) up)).turn = .controller ∧
      (ctlTurn [] (busyWith (.trans 0xE8#32 0 0 0) up)).ctl.busy = .trans 0xE8#32 0 0 0 ∧
      decodeCommand cfg3 0xE8#32 = some .cmdSrta := by decide
theorem witness_ResetAndInitAccepted : up.seq.phase = .idle := rfl
theorem witness_HandshakeRequestsAccepted : up.seq.phase = .idle := rfl
theorem witness_TransactionRequestsAccepted : up.seq.phase = .idle := rfl
theorem witness_ValidSpeedAccepted :
    up.seq.phase = .idle ∧ (12000000#32 : Word) ≠ 0 ∧ 2 ≤ (24000000#32).toNat / (12000000#32).toNat := by decide
theorem witness_InvalidSpeedAnswered :
    up.seq.phase = .idle ∧ ((0#32 : Word) = 0 ∨ False) ∧ (24000000#32).toNat / (16000000#32).toNat < 2 := by decide
theorem witness_RunningOperationKeepsRequestWaiting :
    ∃ t, step (asking rd8Req rd8Started) = .next t ∧ (asking rd8Req rd8Started).seq.phase = .run ∧ t.request = some rd8Req :=
  ⟨_, rfl, rfl, rfl⟩
theorem witness_SoftResetTriggerStarts : 0x1#32 &&& up.cfg.ctrlSoftRst ≠ 0 ∧ 0x1#32 &&& up.cfg.ctrlStartTrans = 0 := by decide
theorem witness_StartTriggerCapturesTransaction :
    0x80#32 &&& up.cfg.ctrlStartTrans ≠ 0 ∧ 0x80#32 &&& up.cfg.ctrlSoftRst = 0 := by decide
theorem witness_BothTriggerBitsOverlap :
    0x81#32 &&& up.cfg.ctrlStartTrans ≠ 0 ∧ 0x81#32 &&& up.cfg.ctrlSoftRst ≠ 0 := by decide
theorem witness_ModeSwitchTriggerStarts : 0x80000000#32 &&& up.cfg.pmcrStart ≠ 0 := by decide
theorem witness_TriggerBitsReadOperationInFlight :
    up.cfg.wf = true ∧ up.platformReady = true ∧ (busyWith .resetting up).ctl.busy = .resetting ∧
      (∃ cmd sa da d, (busyWith (.trans 1 2 3 4) up).ctl.busy = .trans cmd sa da d) ∧
      (∃ p, (busyWith (.pmode 5) up).ctl.busy = .pmode p) :=
  ⟨by decide, rfl, rfl, ⟨_, _, _, _, rfl⟩, ⟨_, rfl⟩⟩
theorem witness_SoftResetCompletionDrawsRegisters :
    (ctlTurn [] (busyWith .resetting up)).cfg.wf = true ∧ (ctlTurn [] (busyWith .resetting up)).turn = .controller ∧
      (ctlTurn [] (busyWith .resetting up)).ctl.busy = .resetting ∧ Reg.all[10]? = some .saddr := by decide
theorem witness_WasResetSetOnlyBySoftReset : ∃ t, step (ctlTurn [] (busyWith .resetting up)) = .next t ∧ t.ctl.wasReset = true := ⟨_, rfl, rfl⟩
/-- C about to complete this mode switch, with this first draw. -/
def switching (p : Payload) (d : Word) (s : State) : State := ctlTurn [d] (busyWith (.pmode p) s)

/-- The hypotheses of ModeSwitchCompletionCases outside its clauses. -/
def SwitchReady (p : Payload) (s : State) : Prop :=
  s.cfg.wf = true ∧ s.turn = .controller ∧ s.ctl.busy = .pmode p ∧ Memory.wf s.dev.regs = true

theorem witness_ModeSwitchCompletionCases_switch :
    SwitchReady 0x7C3E00#24 (switching 0x7C3E00#24 1 coldStart) ∧ (switching 0x7C3E00#24 1 coldStart).dev.mode = .i2c ∧
      (peekDraw (switching 0x7C3E00#24 1 coldStart) 0).getLsbD 0 = true ∧ (0x7C3E00#24).extractLsb' 8 16 = 0x7C3E#16 :=
  ⟨⟨by decide, rfl, rfl, by decide⟩, rfl, by decide, by decide⟩
theorem witness_ModeSwitchCompletionCases_write :
    SwitchReady 0x7C3F00#24 (switching 0x7C3F00#24 1 coldStart) ∧ (switching 0x7C3F00#24 1 coldStart).dev.mode = .i2c ∧
      (peekDraw (switching 0x7C3F00#24 1 coldStart) 0).getLsbD 0 = true ∧ (0x7C3F00#24).extractLsb' 8 16 ≠ 0x7C3E#16 ∧
      isVolatile cfg3 ((0x7C3F00#24).extractLsb' 8 8) = false :=
  ⟨⟨by decide, rfl, rfl, by decide⟩, rfl, by decide, by decide, by decide⟩
theorem witness_ModeSwitchCompletionCases_lost :
    SwitchReady 0x7C3E00#24 (switching 0x7C3E00#24 2 coldStart) ∧ (switching 0x7C3E00#24 2 coldStart).dev.mode = .i2c ∧
      (peekDraw (switching 0x7C3E00#24 2 coldStart) 0).getLsbD 0 = false :=
  ⟨⟨by decide, rfl, rfl, by decide⟩, rfl, by decide⟩
theorem witness_ModeSwitchCompletionCases_rsb :
    SwitchReady 0x7C3E00#24 (switching 0x7C3E00#24 1 up) ∧ (switching 0x7C3E00#24 1 up).dev.mode = .rsb :=
  ⟨⟨by decide, rfl, rfl, by decide⟩, rfl⟩
theorem witness_SrtaAssignsRuntimeAddress :
    matchesHw up 0x002D03A3#32 = true ∧ (0#32 : Word) ≠ up.cfg.statSuccess ∧
      nextWith (exec .cmdSrta (ctlTurn [1#32, 0#32] (busyWith (.trans 0xE8#32 0x002D03A3#32 0 0) up)))
        (fun t => t.ctl.regs.stat == up.cfg.statSuccess) = true := by decide
theorem witness_Rd8DeliversDeviceByte :
    Memory.wf up.dev.regs = true ∧ isVolatile cfg3 (Word.low8 0x21#32) = false ∧ Word.low8 0x10#32 = cfg3.devReadClear ∧
      nextWith (exec .cmdRd8 (ctlTurn [1#32, 0#32, 0#32, 0#32] (busyWith (.trans 0x8B#32 0x002D0000#32 0x21#32 0) up)))
        (fun t => t.ctl.regs.stat == up.cfg.statSuccess) = true := by decide
/-- A RD8 at no device's runtime address, failed with the effect and without it. -/
theorem witness_Rd8DeliversDeviceByte_failed :
    hasEffect (ctlTurn [5#32, 1#32] up) (matchesRt up 0x002C0000#32) = true ∧
      hasEffect (ctlTurn [5#32, 0#32] up) (matchesRt up 0x002C0000#32) = false ∧ (5#32 : Word) ≠ up.cfg.statSuccess := by decide
/-- A RD8 of the volatile register, with its effect. -/
theorem witness_Rd8DeliversDeviceByte_volatile :
    hasEffect (ctlTurn [1#32, 0#32, 0#32, 0xC4#32] up) (matchesRt up 0x002D0000#32) = true ∧
      isVolatile cfg3 (Word.low8 0x11#32) = true ∧ (peekDraw (ctlTurn [1#32, 0#32, 0#32, 0xC4#32] up) 3).low8 = 0xC4#8 := by decide
theorem witness_Wr8StoresByte_volatile :
    hasEffect (ctlTurn [1#32, 0#32, 0xC4#32] up) (matchesRt up 0x002D0000#32) = true ∧
      isVolatile cfg3 (Word.low8 0x11#32) = true := by decide
theorem witness_Wr8StoresByte :
    Memory.wf up.dev.regs = true ∧ isVolatile cfg3 (Word.low8 0x7F#32) = false ∧
      nextWith (exec .cmdWr8 (ctlTurn [1#32, 0#32, 0#32] (busyWith (.trans 0x4E#32 0x002D0000#32 0x7F#32 0) up)))
        (fun t => t.ctl.regs.stat == up.cfg.statSuccess) = true := by decide
theorem witness_UnsupportedCommandsDrawEverything :
    (busyWith (.trans 0x63#32 0 0 0) up).ctl.busy = .trans 0x63#32 0 0 0 ∧
      Instr.cmdWr32 ∈ [Instr.cmdRd16, .cmdRd32, .cmdWr16, .cmdWr32] := by decide
theorem witness_ReservedCommandCompletes :
    up.cfg.wf = true ∧ (ctlTurn [] (busyWith (.trans 0x18B#32 0 0 0) up)).turn = .controller ∧
      (ctlTurn [] (busyWith (.trans 0x18B#32 0 0 0) up)).ctl.busy = .trans 0x18B#32 0 0 0 ∧ (0x18B#32).toNat / 256 ≠ 0 ∧
      Word.low8 0x00#32 ∉ cfg3.opcodes := by decide
theorem witness_FailedWriteAdmitsBothOutcomes :
    (busyWith (.trans 0x4E#32 0x002D0000#32 0x21#32 0xA3#32) up).ctl.busy = .trans 0x4E#32 0x002D0000#32 0x21#32 0xA3#32 ∧
      Memory.wf up.dev.regs = true ∧ isVolatile up.cfg (Word.low8 0x21#32) = false ∧
      (0#32 : Word) ≠ up.cfg.statSuccess := by decide
/-- A WR8 at no device's runtime address. -/
theorem witness_FailedWriteAdmitsBothOutcomes_unaddressed :
    (busyWith (.trans 0x4E#32 0x002C0000#32 0x21#32 0xA3#32) up).ctl.busy = .trans 0x4E#32 0x002C0000#32 0x21#32 0xA3#32 ∧
      matchesRt up 0x002C0000#32 = false := by decide
/-- S waiting for a soft reset that never completes. -/
def stuck : State := polling .resetting .reset .reset 1

theorem witness_CompletionNeverForced :
    AtMicroOp (.poll 0x00#32 0x1#32) stuck ∧ stuck.platformReady = true ∧ stuck.turn = .sequencer ∧
      waitsFor stuck.cfg stuck.ctl.busy = some (.poll 0x00#32 0x1#32) ∧ stuck.seq.tries + 2 < stuck.cfg.pollMaxTries :=
  ⟨⟨by decide, rfl, rfl, rfl⟩, rfl, rfl, rfl, by decide⟩
theorem witness_StuckPollTimesOutAfterExactlyT :
    AtMicroOp (.poll 0x00#32 0x1#32) stuck ∧ waitsFor stuck.cfg stuck.ctl.busy = some (.poll 0x00#32 0x1#32) ∧
      stuck.platformReady = true ∧ stuck.seq.tries = 0 := ⟨⟨by decide, rfl, rfl, rfl⟩, rfl, rfl, rfl⟩
theorem witness_WrMicroOpWritesAndAdvances :
    AtMicroOp (.wr 0x2C#32 0xE8#32) (polling .none .assignRta (.assignRta 0 0) 1) ∧ regAt cfg3 0x2C#32 = some .cmd ∧
      (polling .none .assignRta (.assignRta 0 0) 1).seq.mpc + 1 < (polling .none .assignRta (.assignRta 0 0) 1).seq.mprog.length :=
  ⟨⟨by decide, rfl, rfl, rfl⟩, by decide, by decide⟩
theorem witness_WrMicroOpWritesAndAdvances_ctrl :
    AtMicroOp (.wr 0x00#32 0x02#32) (running .reset [.wr 0x00#32 0x02#32, .status] 0 up) ∧ regAt cfg3 0x00#32 = some .ctrl ∧
      0x02#32 &&& up.cfg.ctrlSoftRst = 0 ∧ 0x02#32 &&& up.cfg.ctrlStartTrans = 0 :=
  ⟨⟨by decide, rfl, rfl, rfl⟩, by decide, by decide, by decide⟩
theorem witness_WrMicroOpWritesAndAdvances_pmcr :
    AtMicroOp (.wr 0x28#32 0x7C3E00#32) (running .reset [.wr 0x28#32 0x7C3E00#32, .status] 0 up) ∧
      regAt cfg3 0x28#32 = some .pmcr ∧ 0x7C3E00#32 &&& up.cfg.pmcrStart = 0 :=
  ⟨⟨by decide, rfl, rfl, rfl⟩, by decide, by decide⟩
/-- S at READ8's POLL with this operation in flight and this draw. -/
def pollRead (b : Busy) (tries : Nat) (d : Word) : State :=
  { polling b .read8 (.read8 0 0) 4 with
    script := [d], seq := { (polling b .read8 (.read8 0 0) 4).seq with tries := tries } }

theorem witness_PollMicroOpCases_clear :
    AtMicroOp (.poll 0x00#32 0x80#32) (pollRead .none 2 0x7F) ∧ regAt cfg3 0x00#32 = some .ctrl ∧
      readValue .ctrl (pollRead .none 2 0x7F) &&& 0x80#32 = 0 ∧
      (pollRead .none 2 0x7F).seq.mpc + 1 < (pollRead .none 2 0x7F).seq.mprog.length :=
  ⟨⟨by decide, rfl, rfl, rfl⟩, by decide, by decide, by decide⟩
theorem witness_PollMicroOpCases_timeout :
    AtMicroOp (.poll 0x00#32 0x80#32) (pollRead (.trans 0 0 0 0) 2 0) ∧
      readValue .ctrl (pollRead (.trans 0 0 0 0) 2 0) &&& 0x80#32 ≠ 0 ∧
      (pollRead (.trans 0 0 0 0) 2 0).seq.tries + 1 = (pollRead (.trans 0 0 0 0) 2 0).cfg.pollMaxTries :=
  ⟨⟨by decide, rfl, rfl, rfl⟩, by decide, by decide⟩
theorem witness_PollMicroOpCases_count :
    AtMicroOp (.poll 0x00#32 0x80#32) (pollRead (.trans 0 0 0 0) 1 0) ∧
      readValue .ctrl (pollRead (.trans 0 0 0 0) 1 0) &&& 0x80#32 ≠ 0 ∧
      (pollRead (.trans 0 0 0 0) 1 0).seq.tries + 1 ≠ (pollRead (.trans 0 0 0 0) 1 0).cfg.pollMaxTries :=
  ⟨⟨by decide, rfl, rfl, rfl⟩, by decide, by decide⟩
theorem witness_PollMicroOpCases_last :
    AtMicroOp (.poll 0x00#32 0x1#32) (polling .none .reset .reset 1) ∧
      readValue .ctrl { polling .none .reset .reset 1 with script := [0xFE#32] } &&& 0x1#32 = 0 ∧
      (polling .none .reset .reset 1).seq.mpc + 1 = (polling .none .reset .reset 1).seq.mprog.length :=
  ⟨⟨by decide, rfl, rfl, rfl⟩, by decide, by decide⟩
theorem witness_ClearedPollSucceedsAtOnce :
    AtMicroOp (.poll 0x00#32 0x80#32) (polling .none .read8 (.read8 0 0) 4) ∧
      waitsFor cfg3 (.trans 0 0 0 0) = some (.poll 0x00#32 0x80#32) ∧ (polling .none .read8 (.read8 0 0) 4).platformReady = true ∧
      (polling .none .read8 (.read8 0 0) 4).ctl.busy = .none ∧
      (polling .none .read8 (.read8 0 0) 4).seq.mpc + 1 < (polling .none .read8 (.read8 0 0) 4).seq.mprog.length :=
  ⟨⟨by decide, rfl, rfl, rfl⟩, rfl, rfl, rfl, by decide⟩
theorem witness_ClearedPollSucceedsAtOnce_last :
    AtMicroOp (.poll 0x28#32 0x80000000#32) (polling .none .modeSwitch (.modeSwitch 0) 1) ∧
      waitsFor cfg3 (.pmode 0) = some (.poll 0x28#32 0x80000000#32) ∧
      (polling .none .modeSwitch (.modeSwitch 0) 1).platformReady = true ∧
      (polling .none .modeSwitch (.modeSwitch 0) 1).ctl.busy = .none ∧
      (polling .none .modeSwitch (.modeSwitch 0) 1).seq.mpc + 1 = (polling .none .modeSwitch (.modeSwitch 0) 1).seq.mprog.length :=
  ⟨⟨by decide, rfl, rfl, rfl⟩, rfl, rfl, rfl, by decide⟩
theorem witness_ClearedPollSucceedsAtOnce_stage :
    AtMicroOp (.poll 0x00#32 0x1#32) (polling .none .init .reset 1) ∧ waitsFor cfg3 .resetting = some (.poll 0x00#32 0x1#32) ∧
      (polling .none .init .reset 1).seq.mpc + 1 = (polling .none .init .reset 1).seq.mprog.length ∧
      (polling .none .init .reset 1).seq.stage < 4 ∧ partOk (initPart cfg3 1) = true :=
  ⟨⟨by decide, rfl, rfl, rfl⟩, rfl, by decide, by decide, by decide⟩
theorem witness_StatusMicroOpChecksSentinel :
    AtMicroOp .status rmwAtStatus ∧ rmwAtStatus.platformReady = true ∧ rmwAtStatus.ctl.regs.stat = 0 ∧
      rmwAtStatus.ctl.regs.stat ≠ rmwAtStatus.cfg.statSuccess := ⟨⟨by decide, rfl, rfl, rfl⟩, rfl, rfl, by decide⟩
theorem witness_StatusMicroOpChecksSentinel_success :
    { zeroRegs with stat := 1#32 }.stat = cfg3.statSuccess ∧
      AtMicroOp .status { rmwAtStatus with ctl := { up.ctl with regs := { zeroRegs with stat := 1#32 } } } :=
  ⟨rfl, by decide, rfl, rfl, rfl⟩
/-- S at ASSIGN_RTA's last micro-op with the success status. -/
def srtaAtStatus : State :=
  { running .assignRta (prog cfg3 (.assignRta 0 0)) 4 up with ctl := { up.ctl with regs := { zeroRegs with stat := 1#32 } } }

theorem witness_StatusMicroOpChecksSentinel_last :
    AtMicroOp .status srtaAtStatus ∧ srtaAtStatus.platformReady = true ∧
      srtaAtStatus.ctl.regs.stat = srtaAtStatus.cfg.statSuccess ∧
      srtaAtStatus.seq.mpc + 1 = srtaAtStatus.seq.mprog.length ∧ srtaAtStatus.seq.op = .assignRta :=
  ⟨⟨by decide, rfl, rfl, rfl⟩, rfl, rfl, rfl, rfl⟩
theorem witness_RddataMicroOpLatchesLowByte :
    AtMicroOp .rddata (running .read8 (prog cfg3 (.read8 0 0)) 6 up) ∧ up.platformReady = true ∧ (prog cfg3 (.read8 0 0))[6]? = some .rddata :=
  ⟨⟨by decide, rfl, rfl, rfl⟩, rfl, rfl⟩
theorem witness_SpeedOperationProgramsCcr :
    AtRequest ⟨1, 24000000#32, 3000000#32, 0, 0⟩ (asking ⟨1, 24000000#32, 3000000#32, 0, 0⟩ up) ∧
      decodeRequest ⟨1, 24000000#32, 3000000#32, 0, 0⟩ = some (.rsbSpeed 24000000#32 3000000#32) ∧
      (3000000#32 : Word) ≠ 0 ∧ 2 ≤ (24000000#32).toNat / (3000000#32).toNat :=
  ⟨⟨by decide, rfl, rfl, rfl⟩, by decide, by decide, by decide⟩

/-- Nine draws for acceptance, then STAT success. -/
def rd8Draws : List Word := [0, 0, 0, 0, 0, 0, 0, 0, 0, 1, 0, 0, 0, 0]

/-- P2's first request, its completion right after its trigger, STAT drawn success. -/
def rd8Start : State := turns (asking rd8Req { up with script := rd8Draws }) [sq, sq, sq, sq, ct, sq, sq, sq, sq]

/-- P2's second request with the byte 0xA3, its completion right after its trigger, STAT drawn success. -/
def wr8Start : State :=
  turns (asking ⟨5, 0, 0xA3#32, 0x2D#8, 0x21#8⟩ { up with script := rd8Draws }) [sq, sq, sq, sq, sq, ct, sq, sq, sq]

/-- The hypotheses the whole transactions share. -/
def TransactionReady (s : State) : Prop :=
  s.cfg.fieldsApart = true ∧ s.platformReady = true ∧ s.ctl.busy = .none ∧ s.ctl.wasReset = true ∧ s.dev.mode = .rsb ∧
    s.dev.rt = some 0x2D#8 ∧ isVolatile s.cfg 0x21#8 = false ∧ Memory.wf s.dev.regs = true ∧
    peekDraw s 9 = s.cfg.statSuccess

theorem witness_ReadOperationReturnsDeviceByte :
    AtRequest rd8Req rd8Start ∧ decodeRequest rd8Req = some (.rsbRd8 0x2D#8 0x21#8) ∧ TransactionReady rd8Start ∧
      Planned [sq, sq, sq, sq, sq, ct, sq, sq, sq] rd8Start ∧
      nextWith (Host.Core.run Sys2Proof.core 9 rd8Start) (fun t => t.seq.respData == 0x5A#8 && t.seq.respValid) = true :=
  ⟨⟨by decide, rfl, rfl, rfl⟩, by decide, ⟨by decide, rfl, rfl, rfl, rfl, rfl, by decide, by decide, by decide⟩,
    ⟨[sq], rfl⟩, by decide⟩
theorem witness_WriteOperationStoresByte :
    AtRequest ⟨5, 0, 0xA3#32, 0x2D#8, 0x21#8⟩ wr8Start ∧
      decodeRequest ⟨5, 0, 0xA3#32, 0x2D#8, 0x21#8⟩ = some (.rsbWr8 0x2D#8 0x21#8 0xA3#8) ∧ TransactionReady wr8Start ∧
      Planned [sq, sq, sq, sq, sq, sq, ct, sq, sq] wr8Start :=
  ⟨⟨by decide, rfl, rfl, rfl⟩, by decide, ⟨by decide, rfl, rfl, rfl, rfl, rfl, by decide, by decide, by decide⟩, ⟨[sq], rfl⟩⟩

/-- The request of P5. -/
def rmwReq : Request := ⟨6, 0x0F#32, 0x03#32, 0x2D#8, 0x21#8⟩

/-- The turns of an RMW whose completions come at once. -/
def rmwTurns : List Agent := [sq, sq, sq, sq, ct, sq, sq, sq, sq, sq, sq, sq, sq, ct, sq, sq, sq]

/-- P5's start: 0xAA at 0x21, both status draws success. -/
def rmwStart : State :=
  turns (asking rmwReq
    { up with
      script := [0, 0, 0, 0, 0, 0, 0, 0, 0, 1, 0, 0, 0, 0, 1, 0, 0, 0]
      dev := { up.dev with regs := [(0x21, 0xAA#8)] } }) rmwTurns

theorem witness_RmwOperationWritesBack :
    AtRequest rmwReq rmwStart ∧ decodeRequest rmwReq = some (.rsbRmw 0x2D#8 0x21#8 0x0F#8 0x03#8) ∧
      TransactionReady rmwStart ∧ Planned (sq :: rmwTurns.take 16) rmwStart ∧ peekDraw rmwStart 14 = 1#32 ∧
      nextWith (Host.Core.run Sys2Proof.core 17 rmwStart) (fun t => memRead t.dev.regs 0x21 == 0xA3#8 && t.seq.respValid)
        = true :=
  ⟨⟨by decide, rfl, rfl, rfl⟩, by decide, ⟨by decide, rfl, rfl, rfl, rfl, rfl, by decide, by decide, by decide⟩, ⟨[sq], rfl⟩,
    by decide, by decide⟩

/-- P1's start, every completion right after its trigger, the mode-switch write received, STAT drawn success. -/
def initStart : State :=
  turns (asking ⟨7, 0, 0, 0, 0⟩
    { coldStart with
      script := [0, 0, 0, 0, 0, 0, 0, 0, 0, 9, 10, 11, 12, 13, 14, 15, 16, 17, 18, 19, 0, 1, 0, 1, 0, 0, 0] })
    [sq, ct, sq, sq, sq, ct, sq, sq, sq, sq, sq, ct, sq, sq, sq]

theorem witness_InitOperationBringsDeviceUp :
    AtRequest ⟨7, 0, 0, 0, 0⟩ initStart ∧ initStart.cfg.fieldsApart = true ∧ initStart.platformReady = true ∧
      initStart.ctl.busy = .none ∧ initStart.dev.mode = .i2c ∧
      Planned [sq, sq, ct, sq, sq, sq, ct, sq, sq, sq, sq, sq, ct, sq, sq] initStart ∧
      initStart.dev.hw = initStart.cfg.pmicHwAddr ∧ isModeSwitch initStart.cfg.modeSwitchPayload = true ∧
      speedOk initStart.cfg.hsSrcFreq initStart.cfg.hsBusFreq = true ∧
      speedOk initStart.cfg.hsSrcFreq initStart.cfg.opBusFreq = true ∧
      (peekDraw initStart 21).getLsbD 0 = true ∧ peekDraw initStart 23 = initStart.cfg.statSuccess :=
  ⟨⟨by decide, rfl, rfl, rfl⟩, by decide, rfl, rfl, rfl, ⟨[sq], rfl⟩, by decide, by decide, by decide, by decide, by decide,
    by decide⟩
theorem witness_InitOkMeansDeviceIsUp :
    initStart.seq.phase = .idle ∧ initStart.seq.respValid = false ∧ initStart.cfg.fieldsApart = true ∧
      ∃ t, Reaches 15 initStart t ∧
        (t.seq.op == .init && t.seq.respValid && t.seq.respKind == .ok && t.flags.clear && t.dev.rt == some 0x2D#8) = true :=
  ⟨rfl, rfl, by decide, reaches_iff (by decide)⟩
theorem witness_FailedPartEndsComposite :
    AtMicroOp .status rmwAtStatus ∧ rmwAtStatus.platformReady = true ∧ rmwAtStatus.seq.op = .rmw ∧
      rmwAtStatus.ctl.regs.stat ≠ rmwAtStatus.cfg.statSuccess :=
  ⟨⟨by decide, rfl, rfl, rfl⟩, rfl, rfl, by decide⟩

/-- S at INIT's first POLL, at the last read of its budget, the soft reset still in flight. -/
def initAtLastRead : State :=
  { polling .resetting .init .reset 1 with seq := { (polling .resetting .init .reset 1).seq with tries := 2 } }

theorem witness_FailedPartEndsComposite_timeout :
    initAtLastRead.seq.op = .init ∧ AtMicroOp (.poll 0x00#32 0x1#32) initAtLastRead ∧
      waitsFor initAtLastRead.cfg initAtLastRead.ctl.busy = some (.poll 0x00#32 0x1#32) ∧
      initAtLastRead.platformReady = true ∧ initAtLastRead.seq.tries + 1 = initAtLastRead.cfg.pollMaxTries :=
  ⟨rfl, ⟨by decide, rfl, rfl, rfl⟩, rfl, rfl, rfl⟩
theorem witness_StepKeepsSysInv : SysInv rd8Started ∧ ∃ t, step rd8Started = .next t := ⟨rd8Started_sysInv, _, rfl⟩
theorem witness_SysInvStepsGoOn : SysInv up ∧ PortLegal up := ⟨up_sysInv, by intro r h; cases h⟩
theorem witness_SysInvStepsGoOn_refused :
    { cfg3 with pollMaxTries := 0 }.wf = false ∧ ({ cfg3 with rsbBase := 0x01F03402#32 } : RsbConfig).rsbBase.toNat % 4 ≠ 0 ∧
      (offsetOf { cfg3 with offSaddr := 0x31#32 } .saddr).toNat % 4 ≠ 0 := by decide
theorem witness_OperationsEndWithinBound :
    SysInv rd8Started ∧ JustAccepted rd8Started ∧ ∀ k, k ≤ 0 → ∃ u, Reaches k rd8Started u ∧ u.seq.phase = .run :=
  ⟨rd8Started_sysInv, ⟨rfl, rfl, rfl, rfl⟩, fun k hk => by obtain rfl := Nat.le_zero.mp hk; exact ⟨_, rfl, rfl⟩⟩
theorem witness_FlagsStayClearWithoutTimeout :
    SysInv up ∧ Quiet up ∧ up.platformReady = true ∧ up.ctl.wasReset = true ∧ up.flags.clear = true ∧ Reaches 0 up up ∧
      ∀ k u, k ≤ 0 → Reaches k up u → ¬TimedOut u :=
  ⟨up_sysInv, ⟨rfl, rfl, rfl⟩, rfl, rfl, rfl, rfl, fun k u hk h ht => by
    obtain rfl := Nat.le_zero.mp hk
    cases h
    exact absurd ht.1 (by decide)⟩
theorem witness_FaultFlagsAreSticky :
    ∃ t, step { up with flags := { notReady := true, notReset := true, overlap := true, badCmd := true } } = .next t :=
  ⟨_, rfl⟩
theorem witness_LaunchParametersNeverChange : ∃ t, step up = .next t := ⟨_, rfl⟩
theorem witness_ModeChangesOnlyByModeSwitch :
    ∃ t, step (switching 0x7C3E00#24 1 coldStart) = .next t ∧ t.dev.mode ≠ (switching 0x7C3E00#24 1 coldStart).dev.mode :=
  ⟨_, rfl, by decide⟩
theorem witness_DeviceChangesOnlyInCompletions :
    ∃ t, step (ctlTurn [1#32, 0#32] (busyWith (.pmode 0x7C3E00#24) coldStart)) = .next t ∧ t.dev ≠ coldStart.dev :=
  ⟨_, rfl, by decide⟩
theorem witness_RuntimeAddressChangesOnlyBySrta :
    ∃ t, step (ctlTurn [1#32, 0#32] (busyWith (.trans 0xE8#32 0x003103A3#32 0 0) up)) = .next t ∧ t.dev.rt ≠ up.dev.rt :=
  ⟨_, rfl, by decide⟩
theorem witness_UnwrittenRegistersKeepTheirWords :
    SysInv rd8Started ∧ (∃ t, step rd8Started = .next t) ∧
      ¬(rd8Started.turn = .controller ∧ rd8Started.ctl.busy = .resetting) := ⟨rd8Started_sysInv, ⟨_, rfl⟩, by decide⟩
theorem witness_OnlySequencerChangesItself :
    ∃ t, step (ctlTurn [] (busyWith .resetting up)) = .next t ∧ (ctlTurn [] (busyWith .resetting up)).turn ≠ .sequencer :=
  ⟨_, rfl, by decide⟩
theorem witness_AccessBeforePlatformReadyFlagged :
    AtMicroOp (.wr 0x2C#32 0x8B#32) { rd8Started with platformReady := false } ∧
      ∃ t, seqStep { rd8Started with platformReady := false } = .next t := ⟨⟨by decide, rfl, rfl, rfl⟩, _, rfl⟩

/-- S at READ8's last micro-op before the platform is ready. -/
def unreadyRddata : State := { running .read8 (prog cfg3 (.read8 0 0)) 6 up with platformReady := false }

theorem witness_AccessBeforePlatformReadyFlagged_status :
    AtMicroOp .status { rmwAtStatus with platformReady := false, script := [5#32] } ∧
      peekDraw { rmwAtStatus with platformReady := false, script := [5#32] } 0 ≠ rmwAtStatus.cfg.statSuccess :=
  ⟨⟨by decide, rfl, rfl, rfl⟩, by decide⟩
theorem witness_AccessBeforePlatformReadyFlagged_rddata :
    AtMicroOp .rddata unreadyRddata ∧ unreadyRddata.platformReady = false ∧
      unreadyRddata.seq.mpc + 1 = unreadyRddata.seq.mprog.length ∧ unreadyRddata.seq.op = .read8 :=
  ⟨⟨by decide, rfl, rfl, rfl⟩, rfl, rfl, rfl⟩
theorem witness_WriteWhileBusyFlagged :
    (busyWith .resetting up).ctl.busy ≠ .none ∧ ∃ t, mmioWrite 0x2C#32 0x8B#32 (busyWith .resetting up) = .next t :=
  ⟨by decide, _, rfl⟩
theorem witness_SequencerResetAbandonsOperation :
    { rd8Started with seqResetIn := true }.cfg.wf = true ∧ { rd8Started with seqResetIn := true }.turn = .sequencer ∧
      { rd8Started with seqResetIn := true }.seqResetIn = true := by decide

/-- H waiting for a response that is a TIMEOUT. -/
def hostWaits : State :=
  { up with
    turn := .host
    seq := { idleSeq with respValid := true, respKind := .timeout }
    host := { program := [.request rd8Req], awaiting := true, status := .running, received := [] } }

theorem witness_HostStopsAtFirstFailure :
    hostWaits.cfg.wf = true ∧ hostWaits.turn = .host ∧ hostWaits.host.status = .running ∧ hostWaits.host.awaiting = true ∧
      hostWaits.request = none ∧ hostWaits.seq.phase = .idle ∧ hostWaits.seq.respValid = true ∧
      hostWaits.seq.respKind ≠ .ok ∧ ∃ t, step { hostWaits with host := { hostWaits.host with status := .stopped } } = .next t :=
  ⟨by decide, rfl, rfl, rfl, rfl, rfl, rfl, by decide, _, rfl⟩
theorem witness_PowerActionEndsHostProgram :
    ∃ s : State, s.cfg.wf = true ∧ s.turn = .host ∧ s.host.status = .running ∧ s.host.awaiting = false ∧ s.request = none ∧
      s.seq.phase = .idle ∧ s.host.program = [.powerAction (.write8 0x32#8 0x80#8)] :=
  ⟨{ up with
      turn := .host
      host := { program := [.powerAction (.write8 0x32#8 0x80#8)], awaiting := false, status := .running, received := [] } },
    by decide, rfl, rfl, rfl, rfl, rfl, rfl⟩
theorem witness_ScratchAccessBounds : (11 : Nat) ≤ 11 ∧ 12 ≤ (12 : Nat) := by decide
theorem witness_HostStopsAtFirstFailure_ok :
    ({ kind := .ok, code := 0, data := 7#8 } : Response).kind = .ok ∧
      ({ kind := .timeout, code := 0, data := 0 } : Response).kind ≠ .ok := by decide
theorem witness_AssembledRequestDecodes :
    assembleLine ['r', 's', 'b', '.', 'i', 'n', 'i', 't'] = some ⟨7, 0, 0, 0, 0⟩ := by decide
theorem witness_AssembledRequestDecodes_numerals :
    IsNumeral ['2', '5', '5'] (0xFF#8).toNat ∧ IsNumeral ['0', 'x', '7', 'C', '3', 'E', '0', '0'] (0x7C3E00#24).toNat ∧
      IsNumeral ['0', 'x', '3', 'A', '3'] (0x3A3#12).toNat ∧ IsNumeral ['0', 'x', '0', '0'] (0x00#8).toNat :=
  ⟨.inl ⟨0, by decide⟩, .inr ⟨0, ['7', 'C', '3', 'E', '0', '0'], by decide, by decide⟩,
    .inr ⟨0, ['3', 'A', '3'], by decide, by decide⟩, .inr ⟨1, ['0'], by decide, by decide⟩⟩
/-- The lines of 30_encoding.md R97 are of the form `lineText`. -/
theorem witness_AssembledRequestDecodes_lines :
    lineText ['r', 'e', 's', 'e', 't'] 0 [] = ['r', 's', 'b', '.', 'r', 'e', 's', 'e', 't'] ∧
      lineText ['s', 'r', 't', 'a'] 1 [['0', 'x', '3', 'A', '3'], ['0', 'x', '2', 'D']] =
        ['r', 's', 'b', '.', 's', 'r', 't', 'a', ' ', '0', 'x', '3', 'A', '3', ',', ' ', '0', 'x', '2', 'D'] := by decide
theorem witness_CompositesRunTheirHostProgram : rmwAtStatus.seq.op = .rmw ∧ rmwAtStatus.seq.stage = 0 := ⟨rfl, rfl⟩

end Sys2Proof.Tests
end

section
/-! # 00_scope.md: what the step of each agent leaves alone

One frame lemma per agent, each built from frame lemmas about the operations its step is made of, and from them the two
statements of the family. -/

namespace Sys2Proof.Machine

/-! ## The controller -/

theorem modeSwitchDone_frame (p : Payload) (s : State) : CompletionFrame s (modeSwitchDone p s) :=
  ⟨rfl, rfl, rfl, rfl, rfl, rfl, rfl, rfl, rfl⟩

theorem srtaDone_frame (sa : Word) (s : State) : CompletionFrame s (srtaDone sa s) :=
  ⟨rfl, rfl, rfl, rfl, rfl, rfl, rfl, rfl, rfl⟩

theorem rd8Done_frame (sa da : Word) (s : State) : CompletionFrame s (rd8Done sa da s) :=
  ⟨rfl, rfl, rfl, rfl, rfl, rfl, rfl, rfl, rfl⟩

theorem wr8Done_frame (sa da d : Word) (s : State) : CompletionFrame s (wr8Done sa da d s) :=
  ⟨rfl, rfl, rfl, rfl, rfl, rfl, rfl, rfl, rfl⟩

theorem unsupportedDone_frame (s : State) : CompletionFrame s (unsupportedDone s) :=
  ⟨rfl, rfl, rfl, rfl, rfl, rfl, rfl, rfl, rfl⟩

@[simp] theorem devAfterSwitch_hw (s : State) (p : Payload) (d : Byte) : (devAfterSwitch s p d).hw = s.dev.hw := by
  unfold devAfterSwitch; split <;> rfl

@[simp] theorem modeSwitchDone_dev_hw (p : Payload) (s : State) : (modeSwitchDone p s).dev.hw = s.dev.hw := by
  simp only [modeSwitchDone, consumeDraws_dev]
  split
  · split
    · exact devAfterSwitch_hw s p _
    · rfl
  · rfl

@[simp] theorem srtaDone_dev_hw (sa : Word) (s : State) : (srtaDone sa s).dev.hw = s.dev.hw := by
  simp only [srtaDone, consumeDraws_dev]; split <;> rfl

@[simp] theorem rd8Done_dev_hw (sa da : Word) (s : State) : (rd8Done sa da s).dev.hw = s.dev.hw := by
  simp only [rd8Done, consumeDraws_dev]; split <;> rfl

@[simp] theorem wr8Done_dev_hw (sa da d : Word) (s : State) : (wr8Done sa da d s).dev.hw = s.dev.hw := by
  simp only [wr8Done, consumeDraws_dev]; split <;> rfl

@[simp] theorem unsupportedDone_dev_hw (s : State) : (unsupportedDone s).dev.hw = s.dev.hw := rfl

/-- What no step of C changes: everything but C itself, the device apart from its hardware address, and the draws. -/
structure CtlFrame (s t : State) : Prop where
  cfg : t.cfg = s.cfg
  seq : t.seq = s.seq
  hw : t.dev.hw = s.dev.hw
  flags : t.flags = s.flags
  platformReady : t.platformReady = s.platformReady
  request : t.request = s.request
  seqResetIn : t.seqResetIn = s.seqResetIn
  host : t.host = s.host

theorem CtlFrame.refl (s : State) : CtlFrame s s := ⟨rfl, rfl, rfl, rfl, rfl, rfl, rfl, rfl⟩

theorem CompletionFrame.ctlFrame {s t : State} (h : CompletionFrame s t) (hhw : t.dev.hw = s.dev.hw) : CtlFrame s t :=
  ⟨h.cfg, h.seq, hhw, h.flags, h.platformReady, h.request, h.seqResetIn, h.host⟩

/-- A soft reset's completion is no `CompletionFrame`, as it sets `was_reset`; its frame includes the device. -/
theorem softResetDone_ctlFrame (s : State) : CtlFrame s (softResetDone s) := ⟨rfl, rfl, rfl, rfl, rfl, rfl, rfl, rfl⟩

theorem ctlStep_ctlFrame {s t : State} (h : ctlStep s = .next t) : CtlFrame s t := by
  rcases ctlStep_cases h with ⟨-, rfl⟩ | ⟨-, rfl⟩ | ⟨p, -, rfl⟩ | ⟨c, sa, da, d, -, hdone⟩
  · exact .refl _
  · exact softResetDone_ctlFrame s
  · exact (modeSwitchDone_frame p s).ctlFrame (modeSwitchDone_dev_hw p s)
  · rcases hdone with ⟨-, rfl⟩ | ⟨-, rfl⟩ | ⟨-, rfl⟩ | rfl
    · exact (srtaDone_frame sa s).ctlFrame (srtaDone_dev_hw sa s)
    · exact (rd8Done_frame sa da s).ctlFrame (rd8Done_dev_hw sa da s)
    · exact (wr8Done_frame sa da d s).ctlFrame (wr8Done_dev_hw sa da d s)
    · exact (unsupportedDone_frame s).ctlFrame (unsupportedDone_dev_hw s)

/-! ## The sequencer -/

/-- What no step of S changes: the parameters, the whole device, the platform flag and the host. -/
structure SeqFrame (s t : State) : Prop where
  cfg : t.cfg = s.cfg
  dev : t.dev = s.dev
  platformReady : t.platformReady = s.platformReady
  host : t.host = s.host

theorem SeqFrame.refl (s : State) : SeqFrame s s := ⟨rfl, rfl, rfl, rfl⟩

theorem SeqFrame.trans {s t u : State} (hst : SeqFrame s t) (htu : SeqFrame t u) : SeqFrame s u :=
  ⟨htu.cfg.trans hst.cfg, htu.dev.trans hst.dev, htu.platformReady.trans hst.platformReady, htu.host.trans hst.host⟩

theorem SeqFrame.of_seqUpdate (q : Seq) (s : State) : SeqFrame s { s with seq := q } := ⟨rfl, rfl, rfl, rfl⟩

theorem seqReset_seqFrame (s : State) : SeqFrame s (seqReset s) := ⟨rfl, rfl, rfl, rfl⟩

theorem respond_seqFrame (k : RespKind) (c : Word) (d : Byte) (s : State) : SeqFrame s (respond k c d s) :=
  ⟨rfl, rfl, rfl, rfl⟩

theorem accept_seqFrame (op : ReqOp) (q : Seq) (p : Part) (s : State) : SeqFrame s (accept op q p s) :=
  ⟨accept_cfg op q p s, accept_dev op q p s, accept_platformReady op q p s, accept_host op q p s⟩

theorem advance_seqFrame (s : State) : SeqFrame s (advance s) :=
  ⟨advance_cfg s, advance_dev s, advance_platformReady s, advance_host s⟩

theorem afterRead_seqFrame (r : Reg) (s : State) : SeqFrame s (afterRead r s) := ⟨rfl, rfl, rfl, rfl⟩

theorem pollStep_seqFrame (mask v : Word) (s : State) : SeqFrame s (pollStep mask v s) := by
  unfold pollStep
  split
  · exact (SeqFrame.of_seqUpdate _ s).trans (advance_seqFrame _)
  · split
    · exact respond_seqFrame _ _ _ s
    · exact .of_seqUpdate _ s

theorem statusStep_seqFrame (v : Word) (s : State) : SeqFrame s (statusStep v s) := by
  unfold statusStep
  split
  · exact advance_seqFrame s
  · exact respond_seqFrame _ _ _ s

theorem dataStep_seqFrame (v : Word) (s : State) : SeqFrame s (dataStep v s) :=
  (SeqFrame.of_seqUpdate _ s).trans (advance_seqFrame _)

/-- A register write reaches C, the flags and the draws alone, whether or not it starts an operation. -/
theorem mmioWrite_seqFrame {off v : Word} {s t : State} (h : mmioWrite off v s = .next t) : SeqFrame s t := by
  obtain ⟨r, -, -, ⟨-, -, rfl⟩ | ⟨-, -, rfl⟩ | ⟨-, rfl⟩⟩ := mmioWrite_cases h
  · exact ⟨rfl, rfl, rfl, rfl⟩
  · exact ⟨rfl, rfl, rfl, rfl⟩
  · exact ⟨rfl, rfl, rfl, rfl⟩

theorem runMicroOp_seqFrame {m : MicroOp} {s t : State} (h : runMicroOp m s = .next t) : SeqFrame s t := by
  rcases runMicroOp_cases h with
    ⟨off, v, u, -, hwrite, rfl⟩ | ⟨off, mask, r, -, -, rfl⟩ | ⟨r, -, -, rfl⟩ | ⟨r, -, -, rfl⟩
  · exact (mmioWrite_seqFrame hwrite).trans (advance_seqFrame u)
  · exact (afterRead_seqFrame r s).trans (pollStep_seqFrame mask _ _)
  · exact (afterRead_seqFrame r s).trans (statusStep_seqFrame _ _)
  · exact (afterRead_seqFrame r s).trans (dataStep_seqFrame _ _)

/-- Every instruction that a request decodes to means acceptance (60_exceptions.md R221). -/
theorem exec_of_decodeRequest {r : Request} {i : Instr} (h : decodeRequest r = some i) (s : State) :
    ∃ op q p, exec i s = acceptWhenIdle op q p s := by
  unfold decodeRequest at h
  split at h
  case h_9 => cases h
  all_goals
    obtain rfl := Option.some.inj h
    exact ⟨_, _, _, rfl⟩

theorem seqStep_seqFrame {s t : State} (h : seqStep s = .next t) : SeqFrame s t := by
  rcases seqStep_cases h with
    ⟨-, rfl⟩ | ⟨-, -, -, rfl⟩ | ⟨-, hidle, r, i, -, hdecode, hexec⟩ | ⟨-, -, m, -, hrun⟩
  · exact seqReset_seqFrame s
  · exact .refl _
  · obtain ⟨op, q, p, haccept⟩ := exec_of_decodeRequest hdecode s
    rw [haccept, acceptWhenIdle_idle hidle] at hexec
    obtain rfl := Host.Outcome.next.inj hexec
    exact accept_seqFrame op q p s
  · exact runMicroOp_seqFrame hrun

/-! ## The host -/

/-- What no step of H changes: everything but the request port and the host itself. -/
structure HostFrame (s t : State) : Prop where
  cfg : t.cfg = s.cfg
  seq : t.seq = s.seq
  ctl : t.ctl = s.ctl
  dev : t.dev = s.dev
  flags : t.flags = s.flags
  platformReady : t.platformReady = s.platformReady
  seqResetIn : t.seqResetIn = s.seqResetIn

theorem HostFrame.refl (s : State) : HostFrame s s := ⟨rfl, rfl, rfl, rfl, rfl, rfl, rfl⟩

theorem hostReadResponse_hostFrame (s : State) : HostFrame s (hostReadResponse s) := by
  unfold hostReadResponse
  split
  · exact ⟨rfl, rfl, rfl, rfl, rfl, rfl, rfl⟩
  · exact .refl s

theorem hostPresent_hostFrame (s : State) : HostFrame s (hostPresent s) := by
  unfold hostPresent
  split
  · exact .refl s
  · exact ⟨rfl, rfl, rfl, rfl, rfl, rfl, rfl⟩
  · exact ⟨rfl, rfl, rfl, rfl, rfl, rfl, rfl⟩

theorem hostStep_hostFrame (s : State) : HostFrame s (hostStep s) := by
  rcases hostStep_cases s with hwait | ⟨-, -, ⟨-, hread⟩ | ⟨-, hpresent⟩⟩
  · rw [hwait]; exact .refl s
  · rw [hread]; exact hostReadResponse_hostFrame s
  · rw [hpresent]; exact hostPresent_hostFrame s

/-! ## The statements -/

/-- Settles O46: each agent's frame holds the launch data, and passing the turn changes the schedule alone. -/
theorem launchParametersNeverChange : Obligations.LaunchParametersNeverChange := by
  intro s t h
  obtain ⟨-, u, rfl, hagent⟩ := step_cases h
  rw [passTurn_cfg, passTurn_platformReady, passTurn_dev]
  rcases hagent with ⟨-, hseq⟩ | ⟨-, hctl⟩ | ⟨-, rfl⟩
  · have hframe := seqStep_seqFrame hseq
    exact ⟨hframe.cfg, hframe.platformReady, congrArg Dev.hw hframe.dev⟩
  · have hframe := ctlStep_ctlFrame hctl
    exact ⟨hframe.cfg, hframe.platformReady, hframe.hw⟩
  · have hframe := hostStep_hostFrame s
    exact ⟨hframe.cfg, hframe.platformReady, congrArg Dev.hw hframe.dev⟩

/-- Settles O51: where it is not S's turn, C or H moves, and the frame of either holds S. -/
theorem onlySequencerChangesItself : Obligations.OnlySequencerChangesItself := by
  intro s t h hturn
  obtain ⟨-, u, rfl, hagent⟩ := step_cases h
  rw [passTurn_seq]
  rcases hagent with ⟨hseqTurn, -⟩ | ⟨-, hctl⟩ | ⟨-, rfl⟩
  · exact absurd hseqTurn hturn
  · exact (ctlStep_ctlFrame hctl).seq
  · exact (hostStep_hostFrame s).seq

end Sys2Proof.Machine
end

section
/-! # 10_state.md: every step keeps the machine's invariant

`SysInv` speaks of the parameters, the device register space and S alone. C and H keep S and the parameters, so for them
the invariant is a congruence. For S, an operation is a chain of parts; `AtPartBoundary` is what holds where one part has
ended and the next may start, and every way an operation goes on or ends is one of the two lemmas about it. -/

namespace Sys2Proof.Machine

/-! ## The clauses of the invariant in the terms of S -/

theorem currentPart_congr {s t : State} (hcfg : t.cfg = s.cfg) (hseq : t.seq = s.seq) :
    currentPart t = currentPart s := by
  simp [currentPart, hcfg, hseq]

theorem currentOp_congr {s t : State} (hseq : t.seq = s.seq) : currentOp t = currentOp s := by
  simp [currentOp, hseq]

theorem prog_length_pos (c : RsbConfig) (p : Part) : 0 < (prog c p).length := by
  cases p <;> simp [prog]

theorem pollMaxTries_pos {c : RsbConfig} (h : c.wf = true) : 0 < c.pollMaxTries := by
  simp only [RsbConfig.wf, Bool.and_eq_true] at h
  obtain ⟨⟨⟨⟨⟨hbudget, -⟩, -⟩, -⟩, -⟩, -⟩ := h
  exact Nat.lt_of_succ_le (of_decide_eq_true hbudget)

/-- The invariant reads the parameters, S and the device register space alone. -/
theorem SysInv.congr {s t : State} (h : SysInv s) (hcfg : t.cfg = s.cfg) (hseq : t.seq = s.seq)
    (hmem : Memory.wf t.dev.regs = true) : SysInv t where
  cfgWf := hcfg ▸ h.cfgWf
  memWf := hmem
  position := hseq ▸ h.position
  running := by rw [hseq, hcfg, currentPart_congr hcfg hseq]; exact h.running
  triesBelow := by rw [hseq, hcfg]; exact h.triesBelow
  triesPolling := by rw [hseq, currentOp_congr hseq]; exact h.triesPolling
  stageBound := hseq ▸ h.stageBound
  codeZero := hseq ▸ h.codeZero
  codeFailure := by rw [hseq, hcfg]; exact h.codeFailure
  dataZero := hseq ▸ h.dataZero

/-- S waiting in IDLE without a response, as after a reset (70_reset_and_hazards.md R250), meets the invariant. -/
theorem SysInv.of_silent_idle {s : State} (hcfg : s.cfg.wf = true) (hmem : Memory.wf s.dev.regs = true)
    (hphase : s.seq.phase = .idle) (hvalid : s.seq.respValid = false) (hposition : s.seq.mpc ≤ s.seq.mprog.length)
    (htries : s.seq.tries = 0) (hstage : s.seq.stage ≤ lastStage s.seq.op) : SysInv s where
  cfgWf := hcfg
  memWf := hmem
  position := hposition
  running hrun := by simp [hphase] at hrun
  triesBelow := htries ▸ pollMaxTries_pos hcfg
  triesPolling hne := absurd htries hne
  stageBound := hstage
  codeZero h := by simp [hvalid] at h
  codeFailure h := by simp [hvalid] at h
  dataZero h := by simp [hvalid] at h

/-- A poll's counter may take any value below the budget, 0 where the micro-op is no poll (10_state.md R23). -/
theorem SysInv.withTries {s : State} (h : SysInv s) {n : Nat} (hbelow : n < s.cfg.pollMaxTries)
    (hpolling : n ≠ 0 → s.seq.phase = .run ∧ ∃ off mask, currentOp s = some (.poll off mask)) :
    SysInv { s with seq := { s.seq with tries := n } } :=
  { h with triesBelow := hbelow, triesPolling := hpolling }

/-- The data latch is free. -/
theorem SysInv.withData {s : State} (h : SysInv s) (b : Byte) : SysInv { s with seq := { s.seq with data := b } } :=
  { h with }

/-! ## Between two parts -/

/-- An operation is running, whatever its micro-op and its counter: enough for S to end it or to start its next part. -/
structure AtPartBoundary (s : State) : Prop where
  cfgWf : s.cfg.wf = true
  memWf : Memory.wf s.dev.regs = true
  phase : s.seq.phase = .run
  respValid : s.seq.respValid = false
  position : s.seq.mpc ≤ s.seq.mprog.length
  stageBound : s.seq.stage ≤ lastStage s.seq.op

/-- In RUN an operation can be left at any micro-op. -/
theorem SysInv.atPartBoundary {s : State} (h : SysInv s) (hrun : s.seq.phase = .run) : AtPartBoundary s := by
  obtain ⟨-, -, -, hvalid⟩ := h.running hrun
  exact ⟨h.cfgWf, h.memWf, hrun, hvalid, h.position, h.stageBound⟩

/-- A response of the form of 10_state.md R24 ends an operation in the invariant. -/
theorem AtPartBoundary.respond_sysInv {s : State} (h : AtPartBoundary s) {kind : RespKind} {code : Word} {data : Byte}
    (hzero : kind ≠ .hwStatus → code = 0) (hfailure : kind = .hwStatus → code ≠ s.cfg.statSuccess)
    (hdata : ¬(s.seq.op = .read8 ∧ kind = .ok) → data = 0) : SysInv (respond kind code data s) where
  cfgWf := h.cfgWf
  memWf := h.memWf
  position := h.position
  running hrun := by simp at hrun
  triesBelow := pollMaxTries_pos h.cfgWf
  triesPolling hne := absurd rfl hne
  stageBound := h.stageBound
  codeZero _ := hzero
  codeFailure _ := hfailure
  dataZero _ := hdata

/-- A response without a code or a byte meets the form of 10_state.md R24 with any kind but HW_STATUS. -/
theorem AtPartBoundary.respond_zero_sysInv {s : State} (h : AtPartBoundary s) {kind : RespKind} (hkind : kind ≠ .hwStatus) :
    SysInv (respond kind 0 0 s) :=
  h.respond_sysInv (fun _ => rfl) (fun hfail => absurd hfail hkind) (fun _ => rfl)

/-- Starting the part that the operation's stage calls for begins it or, its check failed, ends the operation. -/
theorem AtPartBoundary.startPart_sysInv {s : State} (h : AtPartBoundary s) {p : Part} (hpart : currentPart s = p) :
    SysInv (startPart p s) := by
  subst hpart
  cases hok : partOk (currentPart s) with
  | false =>
    rw [startPart_invalid hok]
    exact h.respond_zero_sysInv (by simp)
  | true =>
    rw [startPart_ok hok]
    exact
      { cfgWf := h.cfgWf
        memWf := h.memWf
        position := Nat.zero_le _
        running := fun _ => ⟨rfl, prog_length_pos _ _, hok, h.respValid⟩
        triesBelow := pollMaxTries_pos h.cfgWf
        triesPolling := fun hne => absurd rfl hne
        stageBound := h.stageBound
        codeZero := fun hvalid => by simp [h.respValid] at hvalid
        codeFailure := fun hvalid => by simp [h.respValid] at hvalid
        dataZero := fun hvalid => by simp [h.respValid] at hvalid }

theorem AtPartBoundary.rmwWritePart_sysInv {s : State} (h : AtPartBoundary s) (hop : s.seq.op = .rmw) :
    SysInv (rmwWritePart s) := by
  have hnext : AtPartBoundary { s with seq := { s.seq with old := s.seq.data, stage := 1 } } :=
    { h with stageBound := by simp [hop, lastStage] }
  have hpart : currentPart { s with seq := { s.seq with old := s.seq.data, stage := 1 } } =
      .write8 s.seq.rt s.seq.reg (rmwNew s.seq.data s.seq.clr s.seq.set) := by
    simp [currentPart, hop]
  exact hnext.startPart_sysInv hpart

theorem AtPartBoundary.initNextStage_sysInv {s : State} (h : AtPartBoundary s) (hop : s.seq.op = .init)
    (hstage : s.seq.stage < initLastStage) : SysInv (initNextStage s) := by
  have hnext : AtPartBoundary { s with seq := { s.seq with stage := s.seq.stage + 1 } } :=
    { h with stageBound := by simpa [hop, lastStage] using hstage }
  have hpart : currentPart { s with seq := { s.seq with stage := s.seq.stage + 1 } } =
      initPart s.cfg (s.seq.stage + 1) := by
    simp [currentPart, hop]
  exact hnext.startPart_sysInv hpart

/-- The end of a part ends the operation or starts its next part. -/
theorem AtPartBoundary.partDone_sysInv {s : State} (h : AtPartBoundary s) : SysInv (partDone s) := by
  have hdone : SysInv (respond .ok 0 0 s) := h.respond_zero_sysInv (by simp)
  unfold partDone
  split
  next hop => exact h.respond_sysInv (fun _ => rfl) (by simp) (fun hother => absurd ⟨hop, rfl⟩ hother)
  iterate 5 exact hdone
  next hop =>
    split
    · exact h.rmwWritePart_sysInv hop
    · exact hdone
  next hop =>
    split
    next hstage => exact h.initNextStage_sysInv hop hstage
    next => exact hdone

/-! ## The micro-ops -/

/-- Past a micro-op that leaves no poll counted, S is at the next micro-op or at the end of its part. -/
theorem SysInv.advance_sysInv {s : State} (h : SysInv s) (hrun : s.seq.phase = .run) (htries : s.seq.tries = 0) :
    SysInv (advance s) := by
  obtain ⟨hprog, hbelow, hok, hvalid⟩ := h.running hrun
  have hposition : s.seq.mpc + 1 ≤ s.seq.mprog.length := hbelow
  unfold advance
  split
  next => exact AtPartBoundary.partDone_sysInv { h.atPartBoundary hrun with position := hposition }
  next hmore =>
    exact
      { h with
        position := hposition
        running := fun _ => ⟨hprog, Nat.lt_of_le_of_ne hposition hmore, hok, hvalid⟩
        triesPolling := fun hne => absurd htries hne }

/-- A micro-op that is no poll finds the counter at 0 (10_state.md R23). -/
theorem SysInv.tries_eq_zero {s : State} (h : SysInv s) {m : MicroOp} (hop : currentOp s = some m)
    (hno : ∀ off mask, m ≠ .poll off mask) : s.seq.tries = 0 := by
  by_contra hne
  obtain ⟨-, off, mask, hpoll⟩ := h.triesPolling hne
  exact hno off mask (Option.some.inj (hop.symm.trans hpoll))

theorem SysInv.pollStep_sysInv {s : State} (h : SysInv s) (hrun : s.seq.phase = .run) {off mask : Word}
    (hop : currentOp s = some (.poll off mask)) (v : Word) : SysInv (pollStep mask v s) := by
  unfold pollStep
  split
  next =>
    have hreset := h.withTries (pollMaxTries_pos h.cfgWf) (fun hne => absurd rfl hne)
    exact hreset.advance_sysInv hrun rfl
  next =>
    split
    next => exact (h.atPartBoundary hrun).respond_zero_sysInv (by simp)
    next hmore => exact h.withTries (Nat.lt_of_le_of_ne h.triesBelow hmore) (fun _ => ⟨hrun, off, mask, hop⟩)

theorem SysInv.statusStep_sysInv {s : State} (h : SysInv s) (hrun : s.seq.phase = .run) (htries : s.seq.tries = 0)
    (v : Word) : SysInv (statusStep v s) := by
  unfold statusStep
  split
  next => exact h.advance_sysInv hrun htries
  next hfail => exact (h.atPartBoundary hrun).respond_sysInv (fun hkind => absurd rfl hkind) (fun _ => hfail) (fun _ => rfl)

theorem SysInv.dataStep_sysInv {s : State} (h : SysInv s) (hrun : s.seq.phase = .run) (htries : s.seq.tries = 0)
    (v : Word) : SysInv (dataStep v s) :=
  (h.withData v.low8).advance_sysInv hrun htries

theorem SysInv.afterRead_sysInv {s : State} (h : SysInv s) (r : Reg) : SysInv (afterRead r s) := h.congr rfl rfl h.memWf

/-- A register write leaves S as it is. -/
theorem mmioWrite_seq {off v : Word} {s t : State} (h : mmioWrite off v s = .next t) : t.seq = s.seq := by
  obtain ⟨r, -, -, ⟨-, -, rfl⟩ | ⟨-, -, rfl⟩ | ⟨-, rfl⟩⟩ := mmioWrite_cases h
  · rfl
  · rfl
  · rfl

theorem SysInv.mmioWrite_sysInv {off v : Word} {s t : State} (h : SysInv s) (hwrite : mmioWrite off v s = .next t) :
    SysInv t :=
  have hframe := mmioWrite_seqFrame hwrite
  h.congr hframe.cfg (mmioWrite_seq hwrite) (hframe.dev ▸ h.memWf)

theorem SysInv.runMicroOp_sysInv {m : MicroOp} {s t : State} (h : SysInv s) (hphase : s.seq.phase = .run)
    (hop : currentOp s = some m) (hrun : runMicroOp m s = .next t) : SysInv t := by
  rcases runMicroOp_cases hrun with
    ⟨off, v, u, rfl, hwrite, rfl⟩ | ⟨off, mask, r, rfl, -, rfl⟩ | ⟨r, rfl, -, rfl⟩ | ⟨r, rfl, -, rfl⟩
  · have hseq := mmioWrite_seq hwrite
    exact (h.mmioWrite_sysInv hwrite).advance_sysInv (hseq ▸ hphase) (hseq ▸ h.tries_eq_zero hop (by simp))
  · exact (h.afterRead_sysInv r).pollStep_sysInv hphase hop _
  · exact (h.afterRead_sysInv r).statusStep_sysInv hphase (h.tries_eq_zero hop (by simp)) _
  · exact (h.afterRead_sysInv r).dataStep_sysInv hphase (h.tries_eq_zero hop (by simp)) _

/-! ## Acceptance and the reset line -/

/-- S as acceptance leaves it before the first part starts, from the latched operands `q` (60_exceptions.md R221). -/
def acceptedSeq (op : ReqOp) (q : Seq) : Seq :=
  { q with op := op, respValid := false, phase := .run, stage := 0, tries := 0 }

theorem accept_eq_startPart (op : ReqOp) (q : Seq) (p : Part) (s : State) :
    accept op q p s = startPart p (consumeDraws 9 { s with request := none, seq := acceptedSeq op q }) := rfl

/-- What a request latches: the micro-program and the position stay until the first part starts, and that part is the one
stage 0 of the operation calls for. -/
structure LatchedFor (op : ReqOp) (q : Seq) (p : Part) (s : State) : Prop where
  mprog : q.mprog = s.seq.mprog
  mpc : q.mpc = s.seq.mpc
  firstPart : ∀ t : State, t.seq = acceptedSeq op q → currentPart t = p

theorem exec_latchedFor_of_decodeRequest {r : Request} {i : Instr} (h : decodeRequest r = some i) (s : State) :
    ∃ op q p, exec i s = acceptWhenIdle op q p s ∧ LatchedFor op q p s := by
  unfold decodeRequest at h
  split at h
  case h_9 => cases h
  all_goals
    obtain rfl := Option.some.inj h
    exact ⟨_, _, _, rfl, rfl, rfl, fun t ht => by simp [currentPart, ht, acceptedSeq, initPart]⟩

/-- Acceptance brings S to the boundary before the operation's first part, and starts it. -/
theorem SysInv.accept_sysInv {s : State} (h : SysInv s) {op : ReqOp} {q : Seq} {p : Part} (hlatched : LatchedFor op q p s) :
    SysInv (accept op q p s) := by
  have hposition : q.mpc ≤ q.mprog.length := by rw [hlatched.mpc, hlatched.mprog]; exact h.position
  have hboundary : AtPartBoundary (consumeDraws 9 { s with request := none, seq := acceptedSeq op q }) :=
    ⟨h.cfgWf, h.memWf, rfl, rfl, hposition, Nat.zero_le _⟩
  rw [accept_eq_startPart]
  exact hboundary.startPart_sysInv (hlatched.firstPart _ rfl)

theorem SysInv.seqReset_sysInv {s : State} (h : SysInv s) : SysInv (seqReset s) :=
  .of_silent_idle h.cfgWf h.memWf rfl rfl (Nat.zero_le _) rfl (Nat.zero_le _)

theorem SysInv.seqStep_sysInv {s t : State} (h : SysInv s) (hstep : seqStep s = .next t) : SysInv t := by
  rcases seqStep_cases hstep with
    ⟨-, rfl⟩ | ⟨-, -, -, rfl⟩ | ⟨-, hidle, r, i, -, hdecode, hexec⟩ | ⟨-, hphase, m, hop, hrun⟩
  · exact h.seqReset_sysInv
  · exact h
  · obtain ⟨op, q, p, haccept, hlatched⟩ := exec_latchedFor_of_decodeRequest hdecode s
    rw [haccept, acceptWhenIdle_idle hidle] at hexec
    obtain rfl := Host.Outcome.next.inj hexec
    exact h.accept_sysInv hlatched
  · exact h.runMicroOp_sysInv hphase hop hrun

/-! ## The device register space in the completions -/

/-- What a mode switch's completion does to the device: nothing, the switch itself, or a plain register write
(40_controller.md R116). -/
theorem modeSwitchDone_dev_cases (p : Payload) (s : State) :
    (modeSwitchDone p s).dev = s.dev ∨
      (s.dev.mode = .i2c ∧ isModeSwitch p = true ∧ (modeSwitchDone p s).dev = { s.dev with mode := .rsb, rt := none }) ∨
      (modeSwitchDone p s).dev =
        { s.dev with regs := devWrite s.cfg s.dev.regs (payloadReg p) (payloadData p) (peekByte s 1) } := by
  simp only [modeSwitchDone, consumeDraws_dev, devAfterSwitch]
  split
  next hmode =>
    split
    next =>
      split
      next hswitch => exact .inr (.inl ⟨hmode, hswitch, rfl⟩)
      next => exact .inr (.inr rfl)
    next => exact .inl rfl
  next => exact .inl rfl

theorem srtaDone_dev_cases (sa : Word) (s : State) :
    (srtaDone sa s).dev = s.dev ∨ (srtaDone sa s).dev = { s.dev with rt := some (saddrRta s.cfg sa) } := by
  simp only [srtaDone, consumeDraws_dev]
  split
  · exact .inr rfl
  · exact .inl rfl

theorem rd8Done_dev_cases (sa da : Word) (s : State) :
    (rd8Done sa da s).dev = s.dev ∨
      (rd8Done sa da s).dev = { s.dev with regs := devReadEffect s.cfg s.dev.regs da.low8 } := by
  simp only [rd8Done, consumeDraws_dev]
  split
  · exact .inr rfl
  · exact .inl rfl

theorem wr8Done_dev_cases (sa da d : Word) (s : State) :
    (wr8Done sa da d s).dev = s.dev ∨
      (wr8Done sa da d s).dev = { s.dev with regs := devWrite s.cfg s.dev.regs da.low8 d.low8 (peekByte s 2) } := by
  simp only [wr8Done, consumeDraws_dev]
  split
  · exact .inr rfl
  · exact .inl rfl

@[simp] theorem drawnBytes_length (s : State) (k n : Nat) : (drawnBytes s k n).length = n := by
  induction n generalizing k with
  | zero => rfl
  | succ n ih => simp [drawnBytes, ih]

theorem unsupportedDone_memory_wf (s : State) : Memory.wf (unsupportedDone s).dev.regs = true :=
  memOfTable_wfFrom 0 (drawnBytes s 2 256) (by simp)

/-- Every completion keeps the device register space canonical (20_memory.md R60). -/
theorem ctlStep_memory_wf {s t : State} (hmem : Memory.wf s.dev.regs = true) (h : ctlStep s = .next t) :
    Memory.wf t.dev.regs = true := by
  rcases ctlStep_cases h with
    ⟨-, rfl⟩ | ⟨-, rfl⟩ | ⟨p, -, rfl⟩ | ⟨c, sa, da, d, -, ⟨-, rfl⟩ | ⟨-, rfl⟩ | ⟨-, rfl⟩ | rfl⟩
  · exact hmem
  · exact hmem
  · rcases modeSwitchDone_dev_cases p s with hdev | ⟨-, -, hdev⟩ | hdev
    · rw [hdev]; exact hmem
    · rw [hdev]; exact hmem
    · rw [hdev]; exact devWrite_wf hmem _ _ _ _
  · rcases srtaDone_dev_cases sa s with hdev | hdev
    · rw [hdev]; exact hmem
    · rw [hdev]; exact hmem
  · rcases rd8Done_dev_cases sa da s with hdev | hdev
    · rw [hdev]; exact hmem
    · rw [hdev]; exact devReadEffect_wf hmem _ _
  · rcases wr8Done_dev_cases sa da d s with hdev | hdev
    · rw [hdev]; exact hmem
    · rw [hdev]; exact devWrite_wf hmem _ _ _ _
  · exact unsupportedDone_memory_wf s

/-! ## The statement -/

/-- Settles O40: S goes from part to part, C keeps S and the form of the device register space, H keeps both. -/
theorem stepKeepsSysInv : Obligations.StepKeepsSysInv := by
  intro s t h hstep
  obtain ⟨-, u, rfl, hagent⟩ := step_cases hstep
  have hinv : SysInv u := by
    rcases hagent with ⟨-, hseq⟩ | ⟨-, hctl⟩ | ⟨-, rfl⟩
    · exact h.seqStep_sysInv hseq
    · have hframe := ctlStep_ctlFrame hctl
      exact h.congr hframe.cfg hframe.seq (ctlStep_memory_wf h.memWf hctl)
    · have hframe := hostStep_hostFrame s
      exact h.congr hframe.cfg hframe.seq (hframe.dev ▸ h.memWf)
  exact hinv.congr (passTurn_cfg u) (passTurn_seq u) (by rw [passTurn_dev]; exact hinv.memWf)

end Sys2Proof.Machine
end

section
/-! # 10_state.md: the reset values, the trigger bits and what changes each piece of state -/

namespace Sys2Proof.Machine

/-! ## Words and masks -/

/-- A mask of one bit is a power of two. -/
theorem exists_twoPow_of_oneBit {w : Word} (h : w.oneBit = true) : ∃ k, w.toNat = 2 ^ k := by
  simp only [Word.oneBit, Bool.and_eq_true, bne_iff_ne, beq_iff_eq] at h
  obtain ⟨hne, hand⟩ := h
  have hpos : w.toNat ≠ 0 := fun hzero => hne (BitVec.eq_of_toNat_eq hzero)
  have hsub : (w - 1).toNat = w.toNat - 1 :=
    BitVec.toNat_sub_of_le (BitVec.le_def.mpr (Nat.one_le_iff_ne_zero.mpr hpos))
  refine (Nat.and_sub_one_eq_zero_iff_isPowerOfTwo hpos).mp ?_
  rw [← hsub, ← BitVec.toNat_and, hand]; rfl

/-- Two different masks of one bit have no bit in common. -/
theorem and_eq_zero_of_oneBit {v w : Word} (hv : v.oneBit = true) (hw : w.oneBit = true) (hne : v ≠ w) : v &&& w = 0 := by
  obtain ⟨j, hj⟩ := exists_twoPow_of_oneBit hv
  obtain ⟨k, hk⟩ := exists_twoPow_of_oneBit hw
  have hjk : j ≠ k := fun heq => hne (BitVec.eq_of_toNat_eq (by rw [hj, hk, heq]))
  apply BitVec.eq_of_toNat_eq
  rw [BitVec.toNat_and, hj, hk, Nat.and_two_pow, Nat.testBit_two_pow_of_ne hjk]
  simp

theorem triggers_apart {c : RsbConfig} (h : c.wf = true) : c.ctrlSoftRst &&& c.ctrlStartTrans = 0 := by
  simp only [RsbConfig.wf, RsbConfig.masksOk, Bool.and_eq_true, bne_iff_ne] at h
  obtain ⟨⟨-, ⟨⟨⟨hreset, hstart⟩, -⟩, -⟩, hne⟩, -⟩ := h
  exact and_eq_zero_of_oneBit hreset hstart hne

@[simp] theorem bitIf_true (mask : Word) : bitIf true mask = mask := rfl
@[simp] theorem bitIf_false (mask : Word) : bitIf false mask = 0 := rfl

@[simp] theorem getElem_bitIf (b : Bool) (mask : Word) {i : Nat} (hi : i < 32) : (bitIf b mask)[i] = (b && mask[i]) := by
  cases b <;> simp

/-- A bit that is switched in a word reads as the switch says. -/
theorem switched_and_mask (w mask : Word) (b : Bool) : (w &&& ~~~mask ||| bitIf b mask) &&& mask = bitIf b mask := by
  ext i hi
  cases hbit : mask[i] <;> simp [hbit]

/-- A bit that is switched in a word leaves the word's other bits. -/
theorem switched_and_not_mask (w mask : Word) (b : Bool) : (w &&& ~~~mask ||| bitIf b mask) &&& ~~~mask = w &&& ~~~mask := by
  ext i hi
  cases hbit : mask[i] <;> simp [hbit]

/-- Of two masks that are apart, each switched in a word, the first reads as its own switch says. -/
theorem switched_pair_and_left {u v : Word} (h : u &&& v = 0) (w : Word) (a b : Bool) :
    (w &&& ~~~(u ||| v) ||| bitIf a u ||| bitIf b v) &&& u = bitIf a u := by
  ext i hi
  cases hu : u[i] with
  | false => simp [hu]
  | true =>
    have hv : v[i] = false := by simpa [hu] using congrArg (fun x => x[i]) h
    simp [hu, hv]

theorem switched_pair_and_right {u v : Word} (h : u &&& v = 0) (w : Word) (a b : Bool) :
    (w &&& ~~~(u ||| v) ||| bitIf a u ||| bitIf b v) &&& v = bitIf b v := by
  rw [BitVec.or_comm u v, BitVec.or_assoc, BitVec.or_comm (bitIf a u), ← BitVec.or_assoc]
  exact switched_pair_and_left (by rwa [BitVec.and_comm]) w b a

/-- Two masks switched in a word leave the word's other bits. -/
theorem switched_pair_and_not_masks (u v w : Word) (a b : Bool) :
    (w &&& ~~~(u ||| v) ||| bitIf a u ||| bitIf b v) &&& ~~~(u ||| v) = w &&& ~~~(u ||| v) := by
  ext i hi
  cases hu : u[i] <;> cases hv : v[i] <;> simp [hu, hv]

/-! ## The trigger bits: CTRL and PMCR read them from the operation in flight (R28, R32) -/

theorem ctrlRead_and_softRst {s : State} (h : s.cfg.wf = true) :
    ctrlRead s &&& s.cfg.ctrlSoftRst = bitIf (s.ctl.busy == .resetting) s.cfg.ctrlSoftRst :=
  switched_pair_and_left (triggers_apart h) _ _ _

theorem ctrlRead_and_startTrans {s : State} (h : s.cfg.wf = true) :
    ctrlRead s &&& s.cfg.ctrlStartTrans = bitIf s.ctl.busy.isTrans s.cfg.ctrlStartTrans :=
  switched_pair_and_right (triggers_apart h) _ _ _

theorem ctrlRead_and_not_triggers (s : State) :
    ctrlRead s &&& ~~~(s.cfg.ctrlSoftRst ||| s.cfg.ctrlStartTrans) =
      peekDraw s 0 &&& ~~~(s.cfg.ctrlSoftRst ||| s.cfg.ctrlStartTrans) :=
  switched_pair_and_not_masks _ _ _ _ _

theorem pmcrRead_and_start (s : State) :
    pmcrRead s &&& s.cfg.pmcrStart = bitIf s.ctl.busy.isPmode s.cfg.pmcrStart :=
  switched_and_mask _ _ _

theorem pmcrRead_and_not_start (s : State) :
    pmcrRead s &&& ~~~s.cfg.pmcrStart = s.ctl.regs.pmcr &&& ~~~s.cfg.pmcrStart :=
  switched_and_not_mask _ _ _

theorem readValue_ctrl_of_ready {s : State} (h : s.platformReady = true) : readValue .ctrl s = ctrlRead s := by
  simp [readValue, regRead, h]

theorem readValue_pmcr_of_ready {s : State} (h : s.platformReady = true) : readValue .pmcr s = pmcrRead s := by
  simp [readValue, regRead, h]

theorem Busy.isTrans_iff (b : Busy) : b.isTrans = true ↔ ∃ cmd sa da d, b = .trans cmd sa da d := by
  cases b <;> simp [Busy.isTrans]

theorem Busy.isPmode_iff (b : Busy) : b.isPmode = true ↔ ∃ p, b = .pmode p := by
  cases b <;> simp [Busy.isPmode]

/-- Settles O16: each trigger bit is switched by the operation in flight, and the two of CTRL are different bits. -/
theorem triggerBitsReadOperationInFlight : Obligations.TriggerBitsReadOperationInFlight := by
  intro s hwf hready
  rw [readValue_ctrl_of_ready hready, readValue_pmcr_of_ready hready, ← Busy.isTrans_iff, ← Busy.isPmode_iff]
  have hreset := ctrlRead_and_softRst hwf
  have hstart := ctrlRead_and_startTrans hwf
  have hswitch := pmcrRead_and_start s
  refine ⟨fun h => ?_, fun h => ?_, fun h => ?_, fun h => ?_, fun h => ?_, fun h => ?_,
    ctrlRead_and_not_triggers s, pmcrRead_and_not_start s⟩
  · simpa [h] using hreset
  · simpa [beq_false_of_ne h] using hreset
  · simpa [h] using hstart
  · simpa [h] using hstart
  · simpa [h] using hswitch
  · simpa [h] using hswitch

/-! ## The reset state (R38) -/

theorem default_wf : RsbConfig.default.wf = true := by decide

theorem reset_sysInv : SysInv State.reset :=
  .of_silent_idle default_wf reset_memory_wf rfl rfl (Nat.zero_le _) rfl (Nat.zero_le _)

/-- With nothing in flight no trigger bit of CTRL reads 1. -/
theorem ctrlRead_and_triggers_of_free {s : State} (h : s.cfg.wf = true) (hfree : s.ctl.busy = .none) :
    ctrlRead s &&& (s.cfg.ctrlSoftRst ||| s.cfg.ctrlStartTrans) = 0 := by
  rw [BitVec.and_or_distrib_left, ctrlRead_and_softRst h, ctrlRead_and_startTrans h]
  simp [hfree, Busy.isTrans, bitIf]

/-- Settles O41: with nothing in flight the trigger bits read 0 whatever the power-on words, and the rest is as written. -/
theorem resetValuesAndInvariant : Obligations.ResetValuesAndInvariant := by
  have hpmcr : pmcrRead State.reset &&& State.reset.cfg.pmcrStart = 0 := pmcrRead_and_start State.reset
  exact ⟨reset_sysInv, rfl, rfl, rfl, rfl, rfl, rfl, rfl, ctrlRead_and_triggers_of_free default_wf rfl, hpmcr, rfl, rfl, rfl,
    rfl, rfl⟩

/-! ## What a step of S changes at C and at the flags -/

/-- The fault flags of `f` are still set in `g`. -/
structure FlagsKept (f g : FaultFlags) : Prop where
  notReady : f.notReady = true → g.notReady = true
  notReset : f.notReset = true → g.notReset = true
  overlap : f.overlap = true → g.overlap = true
  badCmd : f.badCmd = true → g.badCmd = true

theorem FlagsKept.refl (f : FaultFlags) : FlagsKept f f := ⟨id, id, id, id⟩

theorem accessFlags_kept (s : State) : FlagsKept s.flags (accessFlags s) where
  notReady h := by simp [accessFlags, h]
  notReset := id
  overlap := id
  badCmd := id

theorem writeFlags_kept (s : State) : FlagsKept s.flags (writeFlags s) where
  notReady := (accessFlags_kept s).notReady
  notReset := id
  overlap h := by simp [writeFlags, h]
  badCmd := id

theorem ctrlWriteFlags_kept (v : Word) (s : State) : FlagsKept s.flags (ctrlWriteFlags v s) where
  notReady := (writeFlags_kept s).notReady
  notReset h := by simp [ctrlWriteFlags, h]
  overlap h := by simp [ctrlWriteFlags, (writeFlags_kept s).overlap h]
  badCmd h := by simp [ctrlWriteFlags, h]

theorem pmcrWriteFlags_kept (v : Word) (s : State) : FlagsKept s.flags (pmcrWriteFlags v s) where
  notReady := (writeFlags_kept s).notReady
  notReset h := by simp [pmcrWriteFlags, h]
  overlap := (writeFlags_kept s).overlap
  badCmd := id

/-- A register access keeps the fault flags that are set, and whether C was reset. -/
structure AccessFrame (s t : State) : Prop where
  wasReset : t.ctl.wasReset = s.ctl.wasReset
  flags : FlagsKept s.flags t.flags

theorem AccessFrame.refl (s : State) : AccessFrame s s := ⟨rfl, .refl _⟩

theorem mmioWrite_accessFrame {off v : Word} {s t : State} (h : mmioWrite off v s = .next t) : AccessFrame s t := by
  obtain ⟨r, -, -, ⟨-, -, rfl⟩ | ⟨-, -, rfl⟩ | ⟨-, rfl⟩⟩ := mmioWrite_cases h
  · exact ⟨rfl, ctrlWriteFlags_kept v s⟩
  · exact ⟨rfl, pmcrWriteFlags_kept v s⟩
  · exact ⟨rfl, writeFlags_kept s⟩

theorem afterRead_accessFrame (r : Reg) (s : State) : AccessFrame s (afterRead r s) := ⟨rfl, accessFlags_kept s⟩

/-- What S does with the word it read, or after its write, reaches neither C nor the flags. -/
theorem AccessFrame.of_same_outside {s t u : State} (h : AccessFrame s t) (hctl : u.ctl = t.ctl) (hflags : u.flags = t.flags) :
    AccessFrame s u :=
  ⟨hctl ▸ h.wasReset, hflags ▸ h.flags⟩

@[simp] theorem pollStep_ctl (mask v : Word) (s : State) : (pollStep mask v s).ctl = s.ctl := by
  unfold pollStep
  split
  · simp
  · split <;> rfl

@[simp] theorem pollStep_flags (mask v : Word) (s : State) : (pollStep mask v s).flags = s.flags := by
  unfold pollStep
  split
  · simp
  · split <;> rfl

@[simp] theorem statusStep_ctl (v : Word) (s : State) : (statusStep v s).ctl = s.ctl := by
  unfold statusStep; split <;> simp

@[simp] theorem statusStep_flags (v : Word) (s : State) : (statusStep v s).flags = s.flags := by
  unfold statusStep; split <;> simp

@[simp] theorem dataStep_ctl (v : Word) (s : State) : (dataStep v s).ctl = s.ctl := by simp [dataStep]

@[simp] theorem dataStep_flags (v : Word) (s : State) : (dataStep v s).flags = s.flags := by simp [dataStep]

theorem runMicroOp_accessFrame {m : MicroOp} {s t : State} (h : runMicroOp m s = .next t) : AccessFrame s t := by
  rcases runMicroOp_cases h with
    ⟨off, v, u, -, hwrite, rfl⟩ | ⟨off, mask, r, -, -, rfl⟩ | ⟨r, -, -, rfl⟩ | ⟨r, -, -, rfl⟩
  · exact (mmioWrite_accessFrame hwrite).of_same_outside (advance_ctl u) (advance_flags u)
  · exact (afterRead_accessFrame r s).of_same_outside (pollStep_ctl _ _ _) (pollStep_flags _ _ _)
  · exact (afterRead_accessFrame r s).of_same_outside (statusStep_ctl _ _) (statusStep_flags _ _)
  · exact (afterRead_accessFrame r s).of_same_outside (dataStep_ctl _ _) (dataStep_flags _ _)

/-- A step of S makes at most one register access. -/
theorem seqStep_accessFrame {s t : State} (h : seqStep s = .next t) : AccessFrame s t := by
  rcases seqStep_cases h with
    ⟨-, rfl⟩ | ⟨-, -, -, rfl⟩ | ⟨-, hidle, r, i, -, hdecode, hexec⟩ | ⟨-, -, m, -, hrun⟩
  · exact ⟨rfl, .refl _⟩
  · exact .refl _
  · obtain ⟨op, q, p, haccept⟩ := exec_of_decodeRequest hdecode s
    rw [haccept, acceptWhenIdle_idle hidle] at hexec
    obtain rfl := Host.Outcome.next.inj hexec
    exact (AccessFrame.refl s).of_same_outside (accept_ctl op q p s) (accept_flags op q p s)
  · exact runMicroOp_accessFrame hrun

/-- Settles O45: a register access adds flags, and nothing else touches them. -/
theorem faultFlagsAreSticky : Obligations.FaultFlagsAreSticky := by
  intro s t h
  obtain ⟨-, u, rfl, hagent⟩ := step_cases h
  have hkept : FlagsKept s.flags u.flags := by
    rcases hagent with ⟨-, hseq⟩ | ⟨-, hctl⟩ | ⟨-, rfl⟩
    · exact (seqStep_accessFrame hseq).flags
    · rw [(ctlStep_ctlFrame hctl).flags]; exact .refl _
    · rw [(hostStep_hostFrame s).flags]; exact .refl _
  rw [passTurn_flags]
  exact ⟨hkept.notReady, hkept.notReset, hkept.overlap, hkept.badCmd⟩

/-! ## Whether C was reset (R39) -/

theorem ctlStep_wasReset {s t : State} (h : ctlStep s = .next t) :
    t.ctl.wasReset = true ↔ s.ctl.wasReset = true ∨ s.ctl.busy = .resetting := by
  rcases ctlStep_cases h with
    ⟨hbusy, rfl⟩ | ⟨hbusy, rfl⟩ | ⟨p, hbusy, rfl⟩ | ⟨c, sa, da, d, hbusy, ⟨-, rfl⟩ | ⟨-, rfl⟩ | ⟨-, rfl⟩ | rfl⟩
  · simp [hbusy]
  · simp [hbusy, softResetDone]
  · simp [hbusy, (modeSwitchDone_frame p s).wasReset]
  · simp [hbusy, (srtaDone_frame sa s).wasReset]
  · simp [hbusy, (rd8Done_frame sa da s).wasReset]
  · simp [hbusy, (wr8Done_frame sa da d s).wasReset]
  · simp [hbusy, (unsupportedDone_frame s).wasReset]

/-- Settles O18: of all steps only C's completion of a soft reset writes it. -/
theorem wasResetSetOnlyBySoftReset : Obligations.WasResetSetOnlyBySoftReset := by
  refine ⟨rfl, fun s t h => ?_⟩
  obtain ⟨-, u, rfl, hagent⟩ := step_cases h
  rw [passTurn_ctl]
  rcases hagent with ⟨hturn, hseq⟩ | ⟨hturn, hctl⟩ | ⟨hturn, rfl⟩
  · simp [hturn, (seqStep_accessFrame hseq).wasReset]
  · simp [hturn, ctlStep_wasReset hctl]
  · simp [hturn, (hostStep_hostFrame s).ctl]

/-! ## The device's mode and runtime address (R34, R35) -/

/-- Only a step of C reaches the device. -/
theorem step_dev_cases {s t : State} (h : step s = .next t) :
    t.dev = s.dev ∨ (s.turn = .controller ∧ ∃ u, ctlStep s = .next u ∧ t.dev = u.dev ∧ t.ctl = u.ctl) := by
  obtain ⟨-, u, rfl, hagent⟩ := step_cases h
  rw [passTurn_dev, passTurn_ctl]
  rcases hagent with ⟨-, hseq⟩ | ⟨hturn, hctl⟩ | ⟨-, rfl⟩
  · exact .inl (seqStep_seqFrame hseq).dev
  · exact .inr ⟨hturn, u, hctl, rfl, rfl⟩
  · exact .inl (hostStep_hostFrame s).dev

/-- The device has obeyed the mode-switch command of payload `p` (40_controller.md R116). -/
structure ModeSwitched (p : Payload) (s t : State) : Prop where
  busy : s.ctl.busy = .pmode p
  isSwitch : isModeSwitch p = true
  modeBefore : s.dev.mode = .i2c
  mode : t.dev.mode = .rsb
  rt : t.dev.rt = none

/-- The device has taken the runtime address of an SRTA with the SADDR word `sa` (40_controller.md R117). -/
structure RuntimeAddressTaken (sa : Word) (s t : State) : Prop where
  busy : ∃ da d, s.ctl.busy = .trans s.cfg.cmdSrta.zext sa da d
  mode : t.dev.mode = s.dev.mode
  rt : t.dev.rt = some (saddrRta s.cfg sa)
  addressed : t.ctl.regs.stat = s.cfg.statSuccess → matchesHw s sa = true

theorem modeSwitchDone_mode_rt {p : Payload} {s : State} (hbusy : s.ctl.busy = .pmode p) :
    ((modeSwitchDone p s).dev.mode = s.dev.mode ∧ (modeSwitchDone p s).dev.rt = s.dev.rt) ∨
      ModeSwitched p s (modeSwitchDone p s) := by
  rcases modeSwitchDone_dev_cases p s with hdev | ⟨hmode, hswitch, hdev⟩ | hdev
  · exact .inl (by simp [hdev])
  · exact .inr ⟨hbusy, hswitch, hmode, by simp [hdev], by simp [hdev]⟩
  · exact .inl (by simp [hdev])

theorem srtaDone_mode_rt {sa da d : Word} {s : State} (hbusy : s.ctl.busy = .trans s.cfg.cmdSrta.zext sa da d) :
    ((srtaDone sa s).dev.mode = s.dev.mode ∧ (srtaDone sa s).dev.rt = s.dev.rt) ∨
      RuntimeAddressTaken sa s (srtaDone sa s) := by
  rcases srtaDone_dev_cases sa s with hdev | hdev
  · exact .inl (by simp [hdev])
  · exact .inr ⟨⟨da, d, hbusy⟩, by simp [hdev], by simp [hdev], addressed_of_reportedStatus⟩

/-- What a step of C does to the device's mode and runtime address: nothing, the mode switch, or an SRTA's assignment. -/
theorem ctlStep_mode_rt {s t : State} (h : ctlStep s = .next t) :
    (t.dev.mode = s.dev.mode ∧ t.dev.rt = s.dev.rt) ∨ (∃ p, ModeSwitched p s t) ∨ ∃ sa, RuntimeAddressTaken sa s t := by
  rcases ctlStep_cases h with
    ⟨-, rfl⟩ | ⟨-, rfl⟩ | ⟨p, hbusy, rfl⟩ | ⟨c, sa, da, d, hbusy, ⟨rfl, rfl⟩ | ⟨-, rfl⟩ | ⟨-, rfl⟩ | rfl⟩
  · exact .inl ⟨rfl, rfl⟩
  · exact .inl ⟨rfl, rfl⟩
  · exact (modeSwitchDone_mode_rt hbusy).imp_right fun hswitched => .inl ⟨p, hswitched⟩
  · exact (srtaDone_mode_rt hbusy).imp_right fun htaken => .inr ⟨sa, htaken⟩
  · rcases rd8Done_dev_cases sa da s with hdev | hdev <;> exact .inl (by simp [hdev])
  · rcases wr8Done_dev_cases sa da d s with hdev | hdev <;> exact .inl (by simp [hdev])
  · exact .inl ⟨rfl, rfl⟩

theorem step_mode_rt {s t : State} (h : step s = .next t) :
    (t.dev.mode = s.dev.mode ∧ t.dev.rt = s.dev.rt) ∨
      (s.turn = .controller ∧ ((∃ p, ModeSwitched p s t) ∨ ∃ sa, RuntimeAddressTaken sa s t)) := by
  rcases step_dev_cases h with hdev | ⟨hturn, u, hctl, hdev, hregs⟩
  · exact .inl ⟨congrArg Dev.mode hdev, congrArg Dev.rt hdev⟩
  · rcases ctlStep_mode_rt hctl with ⟨hmode, hrt⟩ | ⟨p, hswitched⟩ | ⟨sa, htaken⟩
    · exact .inl ⟨hdev ▸ hmode, hdev ▸ hrt⟩
    · exact .inr ⟨hturn, .inl ⟨p, { hswitched with mode := hdev ▸ hswitched.mode, rt := hdev ▸ hswitched.rt }⟩⟩
    · exact .inr ⟨hturn, .inr ⟨sa,
        { busy := htaken.busy, mode := hdev ▸ htaken.mode, rt := hdev ▸ htaken.rt, addressed := hregs ▸ htaken.addressed }⟩⟩

/-- The mode-switch command's two bytes, read as one field of the payload (30_encoding.md R84). -/
theorem command_of_isModeSwitch {p : Payload} (h : isModeSwitch p = true) : p.extractLsb' 8 16 = 0x7C3E#16 := by
  simp only [isModeSwitch, payloadReg, payloadData, Bool.and_eq_true, beq_iff_eq] at h
  obtain ⟨hreg, hdata⟩ := h
  have hfield : p.extractLsb' 16 8 ++ p.extractLsb' 8 8 = p.extractLsb' 8 16 :=
    BitVec.extractLsb'_append_extractLsb'_eq_extractLsb' rfl
  rw [← hfield, hreg, hdata]
  rfl

/-- Settles O48: of the steps that touch the device's mode or runtime address only the mode switch changes the mode. -/
theorem modeChangesOnlyByModeSwitch : Obligations.ModeChangesOnlyByModeSwitch := by
  refine ⟨rfl, fun s t h hchanged => ?_⟩
  rcases step_mode_rt h with ⟨hmode, -⟩ | ⟨hturn, ⟨p, hswitched⟩ | ⟨sa, htaken⟩⟩
  · exact absurd hmode hchanged
  · exact ⟨hturn, hswitched.modeBefore, hswitched.mode, hswitched.rt, p, hswitched.busy,
      command_of_isModeSwitch hswitched.isSwitch⟩
  · exact absurd htaken.mode hchanged

/-- Settles O49: an SRTA's assignment or the mode switch, and an SRTA reports success only with a match. -/
theorem runtimeAddressChangesOnlyBySrta : Obligations.RuntimeAddressChangesOnlyBySrta := by
  refine ⟨rfl, fun s t h hchanged => ?_⟩
  rcases step_mode_rt h with ⟨-, hrt⟩ | ⟨hturn, ⟨p, hswitched⟩ | ⟨sa, htaken⟩⟩
  · exact absurd hrt hchanged
  · exact ⟨hturn, .inr ⟨hswitched.rt, hswitched.modeBefore, hswitched.mode⟩⟩
  · obtain ⟨da, d, hbusy⟩ := htaken.busy
    exact ⟨hturn, .inl ⟨sa, da, d, hbusy, htaken.rt, htaken.addressed⟩⟩

end Sys2Proof.Machine
end

section
/-! # 20_memory.md: which steps reach the device -/

namespace Sys2Proof.Machine

/-- C with nothing in flight, or at a soft reset's completion, leaves the device alone (40_controller.md R111): a step of C
that changes it completes a transaction or a mode switch. -/
theorem ctlStep_dev_cases {s t : State} (h : ctlStep s = .next t) :
    t.dev = s.dev ∨ (∃ cmd sa da d, s.ctl.busy = .trans cmd sa da d) ∨ ∃ p, s.ctl.busy = .pmode p := by
  rcases ctlStep_cases h with ⟨-, rfl⟩ | ⟨-, rfl⟩ | ⟨p, hbusy, -⟩ | ⟨cmd, sa, da, d, hbusy, -⟩
  · exact .inl rfl
  · exact .inl rfl
  · exact .inr (.inr ⟨p, hbusy⟩)
  · exact .inr (.inl ⟨cmd, sa, da, d, hbusy⟩)

/-- Settles O47: only C reaches the device, and only in these two kinds of completion. -/
theorem deviceChangesOnlyInCompletions : Obligations.DeviceChangesOnlyInCompletions := by
  intro s t h hchanged
  rcases step_dev_cases h with hsame | ⟨hturn, u, hctl, hdev, -⟩
  · exact absurd hsame hchanged
  · rcases ctlStep_dev_cases hctl with hsame | hcompletion
    · exact absurd (hdev.trans hsame) hchanged
    · exact ⟨hturn, hcompletion⟩

end Sys2Proof.Machine
end

section
/-! # 30_encoding.md: the words and the instructions they stand for

A request, a CMD value and a trigger word are each decoded at a port of their own. Below, one group of facts for each, and
from them the round trip of the encoder. -/

namespace Sys2Proof.Machine

/-! ## Bytes and words -/

@[simp] theorem wordOfBytes_of_extract (w : Word) :
    wordOfBytes (w.extractLsb' 0 8) (w.extractLsb' 8 8) (w.extractLsb' 16 8) (w.extractLsb' 24 8) = w := by
  have hhigh : w.extractLsb' 24 8 ++ w.extractLsb' 16 8 = w.extractLsb' 16 16 :=
    BitVec.extractLsb'_append_extractLsb'_eq_extractLsb' rfl
  have hupper : w.extractLsb' 16 16 ++ w.extractLsb' 8 8 = w.extractLsb' 8 24 :=
    BitVec.extractLsb'_append_extractLsb'_eq_extractLsb' rfl
  have hword : w.extractLsb' 8 24 ++ w.extractLsb' 0 8 = w.extractLsb' 0 32 :=
    BitVec.extractLsb'_append_extractLsb'_eq_extractLsb' rfl
  rw [wordOfBytes, hhigh, hupper, hword, BitVec.extractLsb'_eq_self]

@[simp] theorem registerWord_bytesOfWord (p : Port) (w : Word) : registerWord p (bytesOfWord w) = .ok w := by
  simp [registerWord, bytesOfWord]

@[simp] theorem requestOfBytes_bytesOfRequest (r : Request) : requestOfBytes (bytesOfRequest r) = .ok r := by
  have hop : (r.op.zeroExtend 8).extractLsb' 0 4 = r.op := by
    apply BitVec.eq_of_toNat_eq
    have hlt := r.op.isLt
    simp only [BitVec.truncate_eq_setWidth, BitVec.extractLsb'_toNat, BitVec.toNat_setWidth, Nat.shiftRight_zero]
    omega
  have hpadding : (r.op.zeroExtend 8).extractLsb' 4 4 = 0 := by
    ext i hi; simp
  simp [requestOfBytes, bytesOfRequest, bytesOfWord, hop, hpadding]

/-- A word is a zero-extended byte exactly when its bits 31..8 are 0 and its low byte is that byte. -/
theorem eq_zext_iff (w : Word) (b : Byte) : w = b.zext ↔ w.toNat / 256 = 0 ∧ w.low8 = b := by
  have hbyte := b.isLt
  rw [← BitVec.toNat_inj, ← BitVec.toNat_inj (x := w.low8)]
  simp only [Byte.zext, Word.low8, BitVec.truncate_eq_setWidth, BitVec.toNat_setWidth]
  omega

@[simp] theorem zext_inj {a b : Byte} : a.zext = b.zext ↔ a = b :=
  ⟨fun h => by rw [← low8_zext a, h, low8_zext], congrArg _⟩

/-! ## Requests (R90 to R92) -/

/-- Every field a request instruction has survives the request. -/
theorem decodeRequest_encodeRequest {i : Instr} {r : Request} (h : encodeRequest i = some r) :
    decodeRequest r = some i := by
  cases i
  case rsbReset | rsbInit | rsbSpeed | rsbRd8 => cases h; rfl
  case rsbModesw | rsbSrta =>
    cases h; simp [decodeRequest, Word.low24, Word.low12]
  case rsbWr8 | rsbRmw => cases h; simp [decodeRequest]
  all_goals cases h

theorem decodeRequest_eq_none_iff (r : Request) : decodeRequest r = none ↔ 8 ≤ r.op.toNat := by
  unfold decodeRequest
  split
  case h_9 => simp only [imp_false, true_iff] at *; omega
  all_goals simp only [reduceCtorEq, false_iff]; omega

/-! ## Bus commands (R80 to R82) -/

/-- The seven opcodes with the commands they stand for (30_encoding.md R80). -/
def commandTable (c : RsbConfig) : List (Byte × Instr) :=
  [(c.cmdSrta, .cmdSrta), (c.cmdRd8, .cmdRd8), (c.cmdRd16, .cmdRd16), (c.cmdRd32, .cmdRd32), (c.cmdWr8, .cmdWr8),
    (c.cmdWr16, .cmdWr16), (c.cmdWr32, .cmdWr32)]

theorem decodeCommand_isSome_iff (c : RsbConfig) (w : Word) :
    (decodeCommand c w).isSome = true ↔ ∃ b ∈ c.opcodes, w = b.zext := by
  simp only [RsbConfig.opcodes, List.mem_cons, List.not_mem_nil, or_false, exists_eq_or_imp, exists_eq_left]
  unfold decodeCommand
  repeat' split
  all_goals simp_all

theorem opcodes_nodup {c : RsbConfig} (h : c.wf = true) : c.opcodes.Nodup := by
  simp only [RsbConfig.wf, RsbConfig.opcodesOk, Bool.and_eq_true, decide_eq_true_eq] at h
  exact h.2

/-- Since the opcodes are distinct, each decodes to its own command. -/
theorem decodeCommand_zext {c : RsbConfig} (h : c.wf = true) {b : Byte} {i : Instr} (hi : (b, i) ∈ commandTable c) :
    decodeCommand c b.zext = some i := by
  have hdistinct := opcodes_nodup h
  simp only [RsbConfig.opcodes, List.nodup_cons, List.mem_cons, not_or, List.not_mem_nil] at hdistinct
  simp only [commandTable, List.mem_cons, Prod.mk.injEq, List.not_mem_nil, or_false] at hi
  rcases hi with
    ⟨rfl, rfl⟩ | ⟨rfl, rfl⟩ | ⟨rfl, rfl⟩ | ⟨rfl, rfl⟩ | ⟨rfl, rfl⟩ | ⟨rfl, rfl⟩ | ⟨rfl, rfl⟩ <;>
    grind [decodeCommand, zext_inj]

/-! ## The round trip -/

theorem decode_encodedRequest (c : RsbConfig) {i : Instr} {r : Request} (h : encodeRequest i = some r) :
    decode c (encodedRequest i).port (encodedRequest i).bytes = .ok i := by
  simp [encodedRequest, decode, h, Except.bind, decodeRequest_encodeRequest h, orError]

theorem decode_encodedCommand {c : RsbConfig} (h : c.wf = true) {b : Byte} {i : Instr} (hi : (b, i) ∈ commandTable c) :
    decode c (encodedWord .cmd b.zext).port (encodedWord .cmd b.zext).bytes = .ok i := by
  simp [encodedWord, decode, Except.bind, decodeCommand_zext h hi, orError]

theorem decode_encodedCtrl {c : RsbConfig} {v : Word} {i : Instr} (h : decodeCtrl c v = some i) :
    decode c (encodedWord .ctrl v).port (encodedWord .ctrl v).bytes = .ok i := by
  simp [encodedWord, decode, Except.bind, h, orError]

theorem decode_encodedPmcr {c : RsbConfig} {v : Word} {i : Instr} (h : decodePmcr c v = some i) :
    decode c (encodedWord .pmcr v).port (encodedWord .pmcr v).bytes = .ok i := by
  simp [encodedWord, decode, Except.bind, h, orError]

/-- Settles O1: at each port the image gives the word back, and the word its instruction. -/
theorem decodeEncodeAgree : Obligations.DecodeEncodeAgree := by
  intro c i hwf hi
  cases i with
  | rsbReset | rsbSpeed | rsbModesw | rsbSrta | rsbRd8 | rsbWr8 | rsbRmw | rsbInit => exact decode_encodedRequest c rfl
  | cmdSrta | cmdRd8 | cmdRd16 | cmdRd32 | cmdWr8 | cmdWr16 | cmdWr32 =>
    exact decode_encodedCommand hwf (by simp [commandTable])
  | ctrlSoftRst v => exact decode_encodedCtrl (if_pos hi)
  | ctrlStartTrans v =>
    obtain ⟨hstart, hreset⟩ := by simpa [Instr.wellFormed] using hi
    exact decode_encodedCtrl (by simp [decodeCtrl, hstart, hreset])
  | pmcrStart v => exact decode_encodedPmcr (if_pos hi)

/-- Settles O3: a CMD value decodes when it is a zero-extended opcode. -/
theorem commandDecodesExactlySeven : Obligations.CommandDecodesExactlySeven := by
  intro c w
  simp only [decodeCommand_isSome_iff, eq_zext_iff]
  exact ⟨fun ⟨b, hb, hhigh, hlow⟩ => ⟨hhigh, hlow ▸ hb⟩, fun ⟨hhigh, hb⟩ => ⟨w.low8, hb, hhigh, rfl⟩⟩

/-- Settles O2: the words are the encodings of their instructions. -/
theorem writtenWordsDecode : Obligations.WrittenWordsDecode :=
  ⟨decodeEncodeAgree RsbConfig.default (.rsbRd8 0x2D#8 0x21#8) default_wf rfl,
    decodeEncodeAgree RsbConfig.default (.rsbRmw 0x2D#8 0x21#8 0x0F#8 0x03#8) default_wf rfl,
    decodeEncodeAgree RsbConfig.default .cmdSrta default_wf rfl,
    decodeEncodeAgree RsbConfig.default (.ctrlStartTrans 0x80#32) default_wf rfl,
    decodeEncodeAgree RsbConfig.default (.pmcrStart 0x807C3E00#32) default_wf rfl⟩

end Sys2Proof.Machine
end

section
/-! # 30_encoding.md: requests and commands in a step of the machine -/

namespace Sys2Proof.Machine

/-! ## The decoded request and the decoded command in a step -/

theorem step_of_seqTurn {s : State} (hwf : s.cfg.wf = true) (hturn : s.turn = .sequencer) :
    step s = onNext (seqStep s) passTurn := by
  simp [step, agentStep, hwf, hturn]

theorem step_of_ctlTurn {s : State} (hwf : s.cfg.wf = true) (hturn : s.turn = .controller) :
    step s = onNext (ctlStep s) passTurn := by
  simp [step, agentStep, hwf, hturn]

theorem step_of_hostTurn {s : State} (hwf : s.cfg.wf = true) (hturn : s.turn = .host) :
    step s = .next (passTurn (hostStep s)) := by
  simp [step, agentStep, hwf, hturn]

theorem AtRequest.seqStep_of_decode {r : Request} {s : State} (h : AtRequest r s) {i : Instr}
    (hdecode : decodeRequest r = some i) : seqStep s = exec i s := by
  simp [seqStep, idleStep, h.noReset, h.phase, h.request, hdecode]

theorem AtRequest.seqStep_of_reserved {r : Request} {s : State} (h : AtRequest r s) (hdecode : decodeRequest r = none) :
    seqStep s = .refused (.reservedRequest r.op) := by
  simp [seqStep, idleStep, h.noReset, h.phase, h.request, hdecode]

/-- Settles O4: the decoder leaves out the ops from 8 on, and what it gives is accepted in IDLE. -/
theorem reservedRequestRefused : Obligations.ReservedRequestRefused := by
  intro s r hturn hat
  rw [step_of_seqTurn hat.cfgWf hturn]
  constructor
  · intro hreserved
    rw [hat.seqStep_of_reserved ((decodeRequest_eq_none_iff r).mpr hreserved)]; rfl
  · intro hop
    have hsome : decodeRequest r ≠ none := fun hnone =>
      absurd ((decodeRequest_eq_none_iff r).mp hnone) (Nat.not_le_of_lt hop)
    obtain ⟨i, hi⟩ := Option.ne_none_iff_exists'.mp hsome
    obtain ⟨op, q, p, haccept⟩ := exec_of_decodeRequest hi s
    rw [hat.seqStep_of_decode hi, haccept, acceptWhenIdle_idle hat.phase]
    exact ⟨_, rfl, by simp⟩

theorem drawnBytes_getD (s : State) (k : Nat) {n i : Nat} (hi : i < n) (b : Byte) :
    (drawnBytes s k n).getD i b = peekByte s (k + i) := by
  induction n generalizing k i with
  | zero => omega
  | succ n ih =>
    cases i with
    | zero => rfl
    | succ i => simpa [drawnBytes, Nat.add_assoc, Nat.add_comm 1 i] using ih (k + 1) (Nat.lt_of_succ_lt_succ hi)

/-- Each device byte after an unsupported command is the draw of its address (40_controller.md R114). -/
theorem memRead_unsupportedDone (s : State) {a : Nat} (ha : a < 256) :
    memRead (unsupportedDone s).dev.regs a = peekByte s (2 + a) := by
  have htable := memRead_memOfTable 0 (drawnBytes s 2 256) a
  rw [Nat.zero_add, drawnBytes_getD s 2 ha] at htable
  exact htable

/-- Passing the turn changes nothing that a completion's frame speaks of. -/
theorem CompletionFrame.after_passTurn {s t : State} (h : CompletionFrame s t) : CompletionFrame s (passTurn t) where
  busy := by simp [h.busy]
  wasReset := by simp [h.wasReset]
  cfg := by simp [h.cfg]
  seq := by simp [h.seq]
  flags := by simp [h.flags]
  platformReady := by simp [h.platformReady]
  request := by simp [h.request]
  seqResetIn := by simp [h.seqResetIn]
  host := by simp [h.host]

theorem ctlStep_of_reserved {s : State} {cmd sa da d : Word} (hbusy : s.ctl.busy = .trans cmd sa da d)
    (hdecode : decodeCommand s.cfg cmd = none) : ctlStep s = .next (unsupportedDone s) := by
  simp [ctlStep, hbusy, hdecode]

/-- Settles O24: a reserved value decodes to no command, and C then completes with the unsupported completion. -/
theorem reservedCommandCompletes : Obligations.ReservedCommandCompletes := by
  intro s cmd sa da d hwf hturn hbusy hreserved
  have hnone : decodeCommand s.cfg cmd = none := by
    rw [← Option.not_isSome_iff_eq_none, commandDecodesExactlySeven]
    exact fun ⟨hhigh, hlow⟩ => hreserved.elim (· hhigh) (· hlow)
  rw [step_of_ctlTurn hwf hturn, ctlStep_of_reserved hbusy hnone, onNext_next]
  refine ⟨_, rfl, (unsupportedDone_frame s).after_passTurn, ?_⟩
  rw [passTurn_ctl, passTurn_dev]
  exact ⟨rfl, rfl, rfl, fun a ha => memRead_unsupportedDone s ha⟩

/-! ## What acceptance loads (R83 to R88) -/

theorem accept_outsideSame (op : ReqOp) (q : Seq) (p : Part) (s : State) : OutsideSame s (accept op q p s) :=
  ⟨accept_cfg op q p s, accept_ctl op q p s, accept_dev op q p s, accept_flags op q p s, accept_platformReady op q p s,
    accept_seqResetIn op q p s, accept_host op q p s⟩

theorem accept_seq_of_partOk {p : Part} (hok : partOk p = true) (op : ReqOp) (q : Seq) (s : State) :
    (accept op q p s).seq = { acceptedSeq op q with mprog := prog s.cfg p, mpc := 0, tries := 0 } := by
  rw [accept_eq_startPart, startPart_ok hok]; rfl

/-- Latching a request's operands leaves the response, the data latch and RMW's old byte as they were (10_state.md R21). -/
structure LatchesOperands (q : Seq) (s : State) : Prop where
  respKind : q.respKind = s.seq.respKind
  respCode : q.respCode = s.seq.respCode
  respData : q.respData = s.seq.respData
  data : q.data = s.seq.data
  old : q.old = s.seq.old

/-- An operation whose first part passes its check is accepted with that part's micro-program. -/
theorem accept_started {op : ReqOp} {q : Seq} {p : Part} {s : State} (hlatch : LatchesOperands q s)
    (hok : partOk p = true) : Started op (prog s.cfg p) s (accept op q p s) := by
  have hseq := accept_seq_of_partOk hok op q s
  constructor
  case request => simp
  case respKind => rw [hseq]; exact hlatch.respKind
  case respCode => rw [hseq]; exact hlatch.respCode
  case respData => rw [hseq]; exact hlatch.respData
  case data => rw [hseq]; exact hlatch.data
  case old => rw [hseq]; exact hlatch.old
  all_goals simp [hseq, acceptedSeq]

/-- What the meaning of a request instruction is in IDLE, when its first part passes its check. -/
theorem exec_started {i : Instr} {s : State} {op : ReqOp} {q : Seq} {p : Part} (haccept : exec i s = acceptWhenIdle op q p s)
    (hidle : s.seq.phase = .idle) (hlatch : LatchesOperands q s) (hok : partOk p = true) :
    ∃ t, exec i s = .next t ∧ OutsideSame s t ∧
      t.seq = { acceptedSeq op q with mprog := prog s.cfg p, mpc := 0, tries := 0 } ∧ Started op (prog s.cfg p) s t :=
  ⟨accept op q p s, haccept.trans (acceptWhenIdle_idle hidle op q p), accept_outsideSame op q p s,
    accept_seq_of_partOk hok op q s, accept_started hlatch hok⟩

/-- Settles O7: acceptance loads the micro-programs of the two parts; under the default configuration their values are the
ones the rules quote. -/
theorem handshakeRequestsAccepted : Obligations.HandshakeRequestsAccepted := by
  refine ⟨fun s p hidle => ?_, fun s hw rt hidle => ?_, by decide, by decide⟩
  · obtain ⟨t, hexec, hsame, hseq, hstarted⟩ :=
      exec_started (i := .rsbModesw p) rfl hidle ⟨rfl, rfl, rfl, rfl, rfl⟩ rfl
    exact ⟨t, hexec, hsame, congrArg Seq.payload hseq, hstarted⟩
  · obtain ⟨t, hexec, hsame, hseq, hstarted⟩ :=
      exec_started (i := .rsbSrta hw rt) rfl hidle ⟨rfl, rfl, rfl, rfl, rfl⟩ rfl
    exact ⟨t, hexec, hsame, congrArg Seq.hw hseq, congrArg Seq.rt hseq, hstarted⟩

/-- Settles O8: acceptance loads the micro-program of the operation's own part, for RMW of its read part. -/
theorem transactionRequestsAccepted : Obligations.TransactionRequestsAccepted := by
  intro s rt reg val clr set hidle
  refine ⟨?_, ?_, ?_⟩
  · obtain ⟨t, hexec, hsame, hseq, hstarted⟩ :=
      exec_started (i := .rsbRd8 rt reg) rfl hidle ⟨rfl, rfl, rfl, rfl, rfl⟩ rfl
    exact ⟨t, hexec, hsame, congrArg Seq.rt hseq, congrArg Seq.reg hseq, hstarted⟩
  · obtain ⟨t, hexec, hsame, hseq, hstarted⟩ :=
      exec_started (i := .rsbWr8 rt reg val) rfl hidle ⟨rfl, rfl, rfl, rfl, rfl⟩ rfl
    exact ⟨t, hexec, hsame, congrArg Seq.rt hseq, congrArg Seq.reg hseq, congrArg Seq.val hseq, hstarted⟩
  · obtain ⟨t, hexec, hsame, hseq, hstarted⟩ :=
      exec_started (i := .rsbRmw rt reg clr set) rfl hidle ⟨rfl, rfl, rfl, rfl, rfl⟩ rfl
    exact ⟨t, hexec, hsame, congrArg Seq.rt hseq, congrArg Seq.reg hseq, congrArg Seq.clr hseq, congrArg Seq.set hseq,
      hstarted⟩

/-! ## Composites (R97) -/

/-- With its read part done, an RMW runs the WRITE8 of the byte it computes (43_transactions.md R182). -/
theorem currentPart_partDone_rmw {s : State} (hop : s.seq.op = .rmw) (hstage : s.seq.stage = 0) :
    currentPart (partDone s) = .write8 s.seq.rt s.seq.reg (rmwNew s.seq.data s.seq.clr s.seq.set) := by
  have hdone : partDone s = rmwWritePart s := by simp [partDone, hop, hstage]
  rw [hdone, rmwWritePart, startPart_ok rfl]
  simp [currentPart, hop]

/-- Settles O60: stage by stage for INIT, read part and write part for RMW. -/
theorem compositesRunTheirHostProgram : Obligations.CompositesRunTheirHostProgram := by
  refine ⟨fun c => rfl, fun s hop hstage => ?_⟩
  have hread : currentPart s = .read8 s.seq.rt s.seq.reg := by simp [currentPart, hop, hstage]
  rw [hread, currentPart_partDone_rmw hop hstage]
  rfl

end Sys2Proof.Machine
end

section
/-! # 30_encoding.md: responses, the host and the assembler -/

namespace Sys2Proof.Machine

/-! ## Responses (R93, R94) -/

theorem toInt_zext_nonneg (b : Byte) : 0 ≤ b.zext.toInt := by
  have hbyte := b.isLt
  have hnat : b.zext.toNat = b.toNat := by simp [Byte.zext]; omega
  rw [BitVec.toInt_eq_toNat_of_lt (by omega)]
  exact Int.natCast_nonneg _

/-- Settles O58: negation is subtraction from 2^32, and a zero-extended byte has no sign bit. -/
theorem responseEncodings : Obligations.ResponseEncodings := by
  refine ⟨rfl, rfl, rfl, rfl, fun c code data => ⟨rfl, rfl, toInt_zext_nonneg data, ?_, rfl, rfl, rfl⟩⟩
  exact BitVec.toNat_neg code

/-! ## The host (R96) -/

@[simp] theorem pollStep_request (mask v : Word) (s : State) : (pollStep mask v s).request = s.request := by
  unfold pollStep
  split
  · simp
  · split <;> rfl

@[simp] theorem statusStep_request (v : Word) (s : State) : (statusStep v s).request = s.request := by
  unfold statusStep; split <;> simp

@[simp] theorem dataStep_request (v : Word) (s : State) : (dataStep v s).request = s.request := by simp [dataStep]

theorem mmioWrite_request {off v : Word} {s t : State} (h : mmioWrite off v s = .next t) : t.request = s.request := by
  obtain ⟨r, -, -, ⟨-, -, rfl⟩ | ⟨-, -, rfl⟩ | ⟨-, rfl⟩⟩ := mmioWrite_cases h
  · rfl
  · rfl
  · rfl

/-- A running operation leaves the request port alone (60_exceptions.md R221). -/
theorem runMicroOp_request {m : MicroOp} {s t : State} (h : runMicroOp m s = .next t) : t.request = s.request := by
  rcases runMicroOp_cases h with
    ⟨off, v, u, -, hwrite, rfl⟩ | ⟨off, mask, r, -, -, rfl⟩ | ⟨r, -, -, rfl⟩ | ⟨r, -, -, rfl⟩
  · rw [advance_request, mmioWrite_request hwrite]
  · simp
  · simp
  · simp

/-- S takes a request from the port, and puts none there. -/
theorem seqStep_request {s t : State} (h : seqStep s = .next t) : t.request = s.request ∨ t.request = none := by
  rcases seqStep_cases h with
    ⟨-, rfl⟩ | ⟨-, -, -, rfl⟩ | ⟨-, hidle, r, i, -, hdecode, hexec⟩ | ⟨-, -, m, -, hrun⟩
  · exact .inl rfl
  · exact .inl rfl
  · obtain ⟨op, q, p, haccept⟩ := exec_of_decodeRequest hdecode s
    rw [haccept, acceptWhenIdle_idle hidle] at hexec
    obtain rfl := Host.Outcome.next.inj hexec
    exact .inr (accept_request op q p s)
  · exact .inl (runMicroOp_request hrun)

theorem hostStep_of_not_running {s : State} (h : s.host.status ≠ .running) : hostStep s = s := by
  rcases hostStep_cases s with hwait | ⟨hrunning, -⟩
  · exact hwait
  · exact absurd hrunning h

/-- Once S is in IDLE with a valid response and the request is consumed, the waiting host reads the response. -/
theorem hostStep_reads {s : State} (hrunning : s.host.status = .running) (hawaiting : s.host.awaiting = true)
    (hport : s.request = none) (hidle : s.seq.phase = .idle) (hvalid : s.seq.respValid = true) :
    hostStep s =
      { s with
        host :=
          { s.host with
            awaiting := false, status := if s.seq.respKind = .ok then .running else .stopped
            received := s.host.received ++ [currentResponse s] } } := by
  simp [hostStep, hrunning, hawaiting, portFree, hport, hidle, hostReadResponse, hvalid]

/-- Settles O55: H's one step at a response, no step of H where it does not run, and the result of a one-request call. -/
theorem hostStopsAtFirstFailure : Obligations.HostStopsAtFirstFailure := by
  refine ⟨fun s hwf hturn hrunning hawaiting hport hidle hvalid => ?_, fun s t h hnot => ?_,
    fun c r rest a v clr set => ?_⟩
  · rw [step_of_hostTurn hwf hturn, hostStep_reads hrunning hawaiting hport hidle hvalid]
    refine ⟨_, rfl, ?_⟩
    simp only [passTurn_host, passTurn_request, passTurn_seq, passTurn_ctl, passTurn_dev]
    exact ⟨trivial, hport, trivial, trivial, trivial, trivial, rfl, fun hfail => if_neg hfail, fun hok => if_pos hok⟩
  · obtain ⟨-, u, rfl, hagent⟩ := step_cases h
    rw [passTurn_host, passTurn_request]
    rcases hagent with ⟨-, hseq⟩ | ⟨-, hctl⟩ | ⟨-, rfl⟩
    · exact ⟨(seqStep_seqFrame hseq).host, seqStep_request hseq⟩
    · exact ⟨(ctlStep_ctlFrame hctl).host, .inl (ctlStep_ctlFrame hctl).request⟩
    · rw [hostStep_of_not_running hnot]; exact ⟨rfl, .inl rfl⟩
  · simp only [callResult, forwarded_cons]
    exact ⟨fun hok => by simp [hok], fun hfail => by simp [hfail]⟩

/-! ## The assembler (R96) -/

theorem encodeRequest_of_requestIf {fits : Bool} {i : Instr} {r : Request} (h : requestIf fits i = some r) :
    encodeRequest i = some r := by
  cases fits with
  | false => cases h
  | true => exact h

/-- A mnemonic gives no request but the encoding of an instruction. -/
theorem exists_encodeRequest_of_assembleOp {name : List Char} {args : List Nat} {r : Request}
    (h : assembleOp name args = some r) : ∃ i, encodeRequest i = some r := by
  unfold assembleOp at h
  split at h
  case h_1 | h_8 => exact ⟨_, h⟩
  case h_9 => cases h
  all_goals exact ⟨_, encodeRequest_of_requestIf h⟩

theorem exists_encodeRequest_of_assembleLine {line : List Char} {r : Request} (h : assembleLine line = some r) :
    ∃ i, encodeRequest i = some r := by
  unfold assembleLine at h
  split at h
  · split at h
    · exact exists_encodeRequest_of_assembleOp h
    · cases h
  · cases h

theorem numerals_of_isNumeral {toks : List (List Char)} {ns : List Nat} (h : List.Forall₂ IsNumeral toks ns) :
    numerals toks = some ns := by
  induction h with
  | nil => rfl
  | cons hn _ ih => simp [numerals, numeral_of_isNumeral hn, ih]

/-- The mnemonic (its characters after `rsb.`) and the operands, as numbers, of a request instruction's line
(30_encoding.md R96). -/
def sourceForm (i : Instr) : Option (List Char × List Nat) :=
  match i with
  | .rsbReset => some (['r', 'e', 's', 'e', 't'], [])
  | .rsbSpeed src bus => some (['s', 'p', 'e', 'e', 'd'], [src.toNat, bus.toNat])
  | .rsbModesw payload => some (['m', 'o', 'd', 'e', 's', 'w'], [payload.toNat])
  | .rsbSrta hw rt => some (['s', 'r', 't', 'a'], [hw.toNat, rt.toNat])
  | .rsbRd8 rt reg => some (['r', 'd', '8'], [rt.toNat, reg.toNat])
  | .rsbWr8 rt reg val => some (['w', 'r', '8'], [rt.toNat, reg.toNat, val.toNat])
  | .rsbRmw rt reg clr set => some (['r', 'm', 'w'], [rt.toNat, reg.toNat, clr.toNat, set.toNat])
  | .rsbInit => some (['i', 'n', 'i', 't'], [])
  | .cmdSrta | .cmdRd8 | .cmdRd16 | .cmdRd32 | .cmdWr8 | .cmdWr16 | .cmdWr32
  | .ctrlSoftRst _ | .ctrlStartTrans _ | .pmcrStart _ => none

theorem requestIf_true (i : Instr) : requestIf true i = encodeRequest i := rfl

theorem decide_toNat_lt {n : Nat} (b : BitVec n) : decide (b.toNat < 2 ^ n) = true := decide_eq_true b.isLt

/-- An instruction's own operands fit their widths, and are read back as they are. -/
theorem assembleOp_sourceForm {i : Instr} {name : List Char} {args : List Nat} (h : sourceForm i = some (name, args)) :
    assembleOp name args = encodeRequest i := by
  cases i
  case rsbReset | rsbInit => cases h; rfl
  case rsbSpeed | rsbModesw | rsbSrta | rsbRd8 | rsbWr8 | rsbRmw =>
    cases h
    simp only [assembleOp, decide_toNat_lt, Bool.and_self, requestIf_true, BitVec.ofNat_toNat, BitVec.setWidth_eq]
  all_goals cases h

theorem sourceForm_name_not_separator {i : Instr} {name : List Char} {args : List Nat}
    (h : sourceForm i = some (name, args)) : name.any isSeparator = false := by
  cases i
  case rsbReset | rsbSpeed | rsbModesw | rsbSrta | rsbRd8 | rsbWr8 | rsbRmw | rsbInit => cases h; decide
  all_goals cases h

/-- A line of an instruction's mnemonic and numerals for its operands assembles to the instruction's request. -/
theorem assembleLine_sourceForm {i : Instr} {name : List Char} {args : List Nat} (h : sourceForm i = some (name, args))
    {k : Nat} {toks : List (List Char)} (hblank : toks ≠ [] → 0 < k) (hargs : List.Forall₂ IsNumeral toks args) :
    assembleLine (lineText name k toks) = encodeRequest i := by
  have hnumerals : ∀ t ∈ toks, ∃ n, IsNumeral t n := by
    clear h hblank
    induction hargs with
    | nil => simp
    | cons hn _ ih => exact List.forall_mem_cons.mpr ⟨⟨_, hn⟩, ih⟩
  rw [assembleLine_lineText (sourceForm_name_not_separator h) hblank hnumerals, numerals_of_isNumeral hargs]
  exact assembleOp_sourceForm h

/-- Settles O59: every line of the assembler ends in `encodeRequest`, and an instruction's own line in its own request. -/
theorem assembledRequestDecodes : Obligations.AssembledRequestDecodes := by
  refine ⟨fun line r h => ?_, by decide, fun k => ?_, fun k => ?_, fun k x y z w => ?_⟩
  · obtain ⟨i, hi⟩ := exists_encodeRequest_of_assembleLine h
    exact ⟨i, hi, decodeRequest_encodeRequest hi⟩
  · exact assembleLine_sourceForm (i := .rsbReset) rfl (by simp) .nil
  · exact assembleLine_sourceForm (i := .rsbInit) rfl (by simp) .nil
  · refine ⟨fun src bus hx hy => ?_, fun p hx => ?_, fun hw rt hx hy => ?_, fun rt reg hx hy => ?_,
      fun rt reg val hx hy hz => ?_, fun rt reg clr set hx hy hz hw => ?_⟩
    · exact assembleLine_sourceForm rfl (fun _ => k.succ_pos) (.cons hx (.cons hy .nil))
    · exact assembleLine_sourceForm rfl (fun _ => k.succ_pos) (.cons hx .nil)
    · exact assembleLine_sourceForm rfl (fun _ => k.succ_pos) (.cons hx (.cons hy .nil))
    · exact assembleLine_sourceForm rfl (fun _ => k.succ_pos) (.cons hx (.cons hy .nil))
    · exact assembleLine_sourceForm rfl (fun _ => k.succ_pos) (.cons hx (.cons hy (.cons hz .nil)))
    · exact assembleLine_sourceForm rfl (fun _ => k.succ_pos) (.cons hx (.cons hy (.cons hz (.cons hw .nil))))

end Sys2Proof.Machine
end

section
/-! # 40_controller.md: the words that start an operation of C -/

namespace Sys2Proof.Machine

/-! ## What a triggering write leaves in flight -/

theorem ctrlWriteBusy_of_softRst {s : State} {v : Word} (hreset : startsReset s.cfg v = true)
    (hstart : startsTrans s.cfg v = false) : ctrlWriteBusy v s = .resetting := by
  simp [ctrlWriteBusy, hreset, hstart]

theorem ctrlWriteBusy_of_startTrans {s : State} {v : Word} (hreset : startsReset s.cfg v = false)
    (hstart : startsTrans s.cfg v = true) : ctrlWriteBusy v s = capturedTrans s := by
  simp [ctrlWriteBusy, hreset, hstart]

/-- With both trigger bits the draw picks one of the two operations (log 11). -/
theorem ctrlWriteBusy_of_both {s : State} {v : Word} (hreset : startsReset s.cfg v = true)
    (hstart : startsTrans s.cfg v = true) :
    ctrlWriteBusy v s = .resetting ∨ ctrlWriteBusy v s = capturedTrans s := by
  cases hpick : peekBool s 0 <;> simp [ctrlWriteBusy, hreset, hstart, hpick]

@[simp] theorem consumeDraws_zero (s : State) : consumeDraws 0 s = s := rfl

/-- A CTRL word without both trigger bits makes no draw. -/
theorem ctrlWrite_of_not_both {s : State} {v : Word} (h : (startsReset s.cfg v && startsTrans s.cfg v) = false) :
    ctrlWrite v s =
      { s with
        flags := ctrlWriteFlags v s
        ctl := { s.ctl with busy := ctrlWriteBusy v s, regs := { s.ctl.regs with ctrl := v } } } := by
  rw [ctrlWrite, h]
  exact consumeDraws_zero _

theorem startsReset_eq_true {c : RsbConfig} {v : Word} (h : v &&& c.ctrlSoftRst ≠ 0) : startsReset c v = true := by
  simpa [startsReset] using h

theorem startsReset_eq_false {c : RsbConfig} {v : Word} (h : v &&& c.ctrlSoftRst = 0) : startsReset c v = false := by
  simp [startsReset, h]

theorem startsTrans_eq_true {c : RsbConfig} {v : Word} (h : v &&& c.ctrlStartTrans ≠ 0) : startsTrans c v = true := by
  simpa [startsTrans] using h

theorem startsTrans_eq_false {c : RsbConfig} {v : Word} (h : v &&& c.ctrlStartTrans = 0) : startsTrans c v = false := by
  simp [startsTrans, h]

theorem startsSwitch_eq_true {c : RsbConfig} {v : Word} (h : v &&& c.pmcrStart ≠ 0) : startsSwitch c v = true := by
  simpa [startsSwitch] using h

/-! ## The flags of a triggering write (R110, R112, R115) -/

theorem ctrlWriteFlags_of_softRst {s : State} {v : Word} (hstart : startsTrans s.cfg v = false) :
    ctrlWriteFlags v s = writeFlags s := by
  simp [ctrlWriteFlags, hstart, writeFlags, accessFlags]

theorem ctrlWriteFlags_of_startTrans {s : State} {v : Word} (hreset : startsReset s.cfg v = false)
    (hstart : startsTrans s.cfg v = true) :
    ctrlWriteFlags v s =
      { writeFlags s with
        notReset := s.flags.notReset || needsReset s
        badCmd := s.flags.badCmd || unsupportedCmd s.cfg s.ctl.regs.cmd } := by
  simp [ctrlWriteFlags, hreset, hstart]

theorem pmcrWriteFlags_of_start {s : State} {v : Word} (hstart : startsSwitch s.cfg v = true) :
    pmcrWriteFlags v s = { writeFlags s with notReset := s.flags.notReset || needsReset s } := by
  simp [pmcrWriteFlags, hstart]

theorem ctrlWriteFlags_overlap_of_both {s : State} {v : Word} (hreset : startsReset s.cfg v = true)
    (hstart : startsTrans s.cfg v = true) : (ctrlWriteFlags v s).overlap = true := by
  simp [ctrlWriteFlags, hreset, hstart]

theorem bne_eq_decide_ne {α : Type} [DecidableEq α] (a b : α) : (a != b) = decide (a ≠ b) := by
  by_cases h : a = b <;> simp [h]

theorem writeFlags_eq (s : State) :
    writeFlags s =
      { s.flags with
        notReady := s.flags.notReady || !s.platformReady
        overlap := s.flags.overlap || decide (s.ctl.busy ≠ .none) } := by
  simp [writeFlags, accessFlags, bne_eq_decide_ne]

/-- An unsupported command is any CMD word but the three that drivers use (30_encoding.md R80). -/
theorem unsupportedCmd_eq (c : RsbConfig) (w : Word) :
    unsupportedCmd c w = decide (w ∉ [c.cmdSrta.zext, c.cmdRd8.zext, c.cmdWr8.zext]) := by
  simp [unsupportedCmd, bne_eq_decide_ne, Bool.and_assoc]

/-! ## The statements -/

/-- Settles O12: the soft-reset bit alone decides the operation, and no draw is made. -/
theorem softResetTriggerStarts : Obligations.SoftResetTriggerStarts := by
  intro s v hbit hother
  have hreset := startsReset_eq_true hbit
  have hstart := startsTrans_eq_false hother
  have hwrite := ctrlWrite_of_not_both (s := s) (v := v) (by simp [hstart])
  rw [ctrlWriteBusy_of_softRst hreset hstart, ctrlWriteFlags_of_softRst hstart, writeFlags_eq] at hwrite
  exact congrArg Host.Outcome.next hwrite

/-- Settles O13: the start bit alone decides the operation, and it adds its own two flags. -/
theorem startTriggerCapturesTransaction : Obligations.StartTriggerCapturesTransaction := by
  intro s v hbit hother
  have hstart := startsTrans_eq_true hbit
  have hreset := startsReset_eq_false hother
  have hwrite := ctrlWrite_of_not_both (s := s) (v := v) (by simp [hreset])
  rw [ctrlWriteBusy_of_startTrans hreset hstart, ctrlWriteFlags_of_startTrans hreset hstart, writeFlags_eq,
    unsupportedCmd_eq] at hwrite
  exact congrArg Host.Outcome.next hwrite

/-- Settles O14: both triggers are one CTRL write, and which operation it starts is that write's draw. -/
theorem bothTriggerBitsOverlap : Obligations.BothTriggerBitsOverlap := by
  intro s v hstartBit hresetBit
  have hstart := startsTrans_eq_true hstartBit
  have hreset := startsReset_eq_true hresetBit
  exact ⟨ctrlWrite v s, rfl, rfl, ctrlWriteFlags_overlap_of_both hreset hstart, rfl, rfl, rfl, rfl,
    ctrlWriteBusy_of_both hreset hstart⟩

/-- Settles O15: the start bit decides the operation, and its payload is the word's low 24 bits. -/
theorem modeSwitchTriggerStarts : Obligations.ModeSwitchTriggerStarts := by
  intro s v hbit
  have hstart := startsSwitch_eq_true hbit
  have hpayload : v.low24 = v.extractLsb' 0 24 := rfl
  have hexec : exec (.pmcrStart v) s = .next (pmcrWrite v s) := rfl
  rw [hexec, pmcrWrite, pmcrWriteFlags_of_start hstart, writeFlags_eq, if_pos hstart, hpayload]
  rfl

end Sys2Proof.Machine
end

section
/-! # 40_controller.md: the completions -/

namespace Sys2Proof.Machine

/-! ## A soft reset's completion (R111) -/

/-- The registers, listed in order, are the first eleven draws. -/
theorem regs_softResetDone (s : State) :
    Reg.all.map (regGet (softResetDone s).ctl.regs) = (List.range 11).map (peekDraw s) := rfl

theorem regGet_softResetDone (s : State) {k : Nat} {r : Reg} (h : Reg.all[k]? = some r) :
    regGet (softResetDone s).ctl.regs r = peekDraw s k := by
  obtain ⟨hk, -⟩ := List.getElem?_eq_some_iff.mp h
  have hlist : (Reg.all.map (regGet (softResetDone s).ctl.regs))[k]? = ((List.range 11).map (peekDraw s))[k]? := by
    rw [regs_softResetDone]
  rw [List.getElem?_map, List.getElem?_map, h, List.getElem?_range (n := 11) hk] at hlist
  exact Option.some.inj hlist

/-- With nothing in flight no trigger bit reads 1 on a ready platform (10_state.md R28, R32). -/
theorem triggerBits_clear_of_free {s : State} (hwf : s.cfg.wf = true) (hfree : s.ctl.busy = .none)
    (hready : s.platformReady = true) :
    readValue .ctrl s &&& s.cfg.ctrlSoftRst = 0 ∧ readValue .ctrl s &&& s.cfg.ctrlStartTrans = 0 ∧
      readValue .pmcr s &&& s.cfg.pmcrStart = 0 := by
  obtain ⟨-, hreset, -, hstart, -, hswitch, -⟩ := triggerBitsReadOperationInFlight s hwf hready
  exact ⟨hreset (by simp [hfree]), hstart (by simp [hfree]), hswitch (by simp [hfree])⟩

/-- Settles O17: the registers are the draws in order, and with nothing in flight every trigger bit reads 0. -/
theorem softResetCompletionDrawsRegisters : Obligations.SoftResetCompletionDrawsRegisters := by
  intro s hwf hturn hbusy
  have hctl : ctlStep s = .next (softResetDone s) := by simp [ctlStep, hbusy]
  have hframe := softResetDone_ctlFrame s
  have hcfg : (passTurn (softResetDone s)).cfg = s.cfg := by rw [passTurn_cfg, hframe.cfg]
  have hfree : (passTurn (softResetDone s)).ctl.busy = .none := by rw [passTurn_ctl]; rfl
  refine ⟨passTurn (softResetDone s), by rw [step_of_ctlTurn hwf hturn, hctl, onNext_next], hfree, ?_, ?_, ?_, ?_, ?_,
    fun k r h => ?_, fun hready => ?_⟩
  · rw [passTurn_ctl]; rfl
  · rw [passTurn_dev]; rfl
  · rw [passTurn_seq, hframe.seq]
  · rw [passTurn_flags, hframe.flags]
  · rw [passTurn_request, hframe.request]
  · rw [passTurn_ctl, regGet_softResetDone s h]
  · have hready' : (passTurn (softResetDone s)).platformReady = true := by
      rw [passTurn_platformReady, hframe.platformReady, hready]
    simpa only [hcfg] using triggerBits_clear_of_free (hcfg ▸ hwf) hfree hready'

/-! ## The device register space after a `DevRead` or a `DevWrite` (20_memory.md R66) -/

theorem memRead_devWrite {m : Memory} (h : Memory.wf m = true) (c : RsbConfig) (a b d : Byte) (a' : Nat) :
    memRead (devWrite c m a b d) a' =
      if a' = a.toNat then (if isVolatile c a then d else b) else memRead m a' :=
  memRead_memWrite h _ _ _

theorem memRead_devWrite_plain {m : Memory} (h : Memory.wf m = true) {c : RsbConfig} {a : Byte}
    (hplain : isVolatile c a = false) (b d : Byte) : memRead (devWrite c m a b d) a.toNat = b := by
  simp [memRead_devWrite h, hplain]

theorem memRead_devWrite_volatile {m : Memory} (h : Memory.wf m = true) {c : RsbConfig} {a : Byte}
    (hvol : isVolatile c a = true) (b d : Byte) : memRead (devWrite c m a b d) a.toNat = d := by
  simp [memRead_devWrite h, hvol]

theorem memRead_devWrite_other {m : Memory} (h : Memory.wf m = true) (c : RsbConfig) {a : Byte} (b d : Byte) {a' : Nat}
    (hne : a' ≠ a.toNat) : memRead (devWrite c m a b d) a' = memRead m a' := by
  simp [memRead_devWrite h, hne]

theorem memRead_devReadEffect_cleared {m : Memory} (h : Memory.wf m = true) {c : RsbConfig} {a : Byte}
    (hclear : a = c.devReadClear) : memRead (devReadEffect c m a) a.toNat = 0 := by
  rw [devReadEffect, if_pos hclear, memRead_memWrite h, if_pos rfl]
  rfl

theorem memRead_devReadEffect_other {m : Memory} (h : Memory.wf m = true) (c : RsbConfig) {a : Byte} {a' : Nat}
    (hne : ¬(a' = a.toNat ∧ a = c.devReadClear)) : memRead (devReadEffect c m a) a' = memRead m a' := by
  unfold devReadEffect
  split
  next hclear => rw [memRead_memWrite h, if_neg fun haddr => hne ⟨haddr, hclear⟩]
  next => rfl

/-! ## A mode switch's completion (R116) -/

/-- The payload's command is the 16-bit field above its low byte: data above register (30_encoding.md R84). -/
theorem payloadData_append_payloadReg (p : Payload) : payloadData p ++ payloadReg p = p.extractLsb' 8 16 :=
  BitVec.extractLsb'_append_extractLsb'_eq_extractLsb' rfl

theorem isModeSwitch_iff (p : Payload) : isModeSwitch p = true ↔ p.extractLsb' 8 16 = 0x7C3E#16 := by
  refine ⟨command_of_isModeSwitch, fun hcommand => ?_⟩
  have hdata : (payloadData p ++ payloadReg p).extractLsb' 8 8 = payloadData p := BitVec.extractLsb'_append_eq_left
  have hreg : (payloadData p ++ payloadReg p).setWidth 8 = payloadReg p := BitVec.setWidth_append_eq_right
  rw [payloadData_append_payloadReg, hcommand] at hdata hreg
  rw [isModeSwitch, ← hdata, ← hreg]
  decide

theorem modeSwitchDone_dev_of_rsb {s : State} (hmode : s.dev.mode = .rsb) (p : Payload) :
    (modeSwitchDone p s).dev = s.dev := by
  simp [modeSwitchDone, hmode]

theorem modeSwitchDone_dev_of_lost {s : State} (hlost : peekBool s 0 = false) (p : Payload) :
    (modeSwitchDone p s).dev = s.dev := by
  cases hmode : s.dev.mode <;> simp [modeSwitchDone, hmode, hlost]

theorem modeSwitchDone_dev_of_received {s : State} (hmode : s.dev.mode = .i2c) (hreceived : peekBool s 0 = true)
    (p : Payload) : (modeSwitchDone p s).dev = devAfterSwitch s p (peekByte s 1) := by
  simp [modeSwitchDone, hmode, hreceived]

theorem devAfterSwitch_of_command {p : Payload} (h : p.extractLsb' 8 16 = 0x7C3E#16) (s : State) (d : Byte) :
    devAfterSwitch s p d = { s.dev with mode := .rsb, rt := none } :=
  if_pos ((isModeSwitch_iff p).mpr h)

theorem devAfterSwitch_of_write {p : Payload} (h : p.extractLsb' 8 16 ≠ 0x7C3E#16) (s : State) (d : Byte) :
    devAfterSwitch s p d = { s.dev with regs := devWrite s.cfg s.dev.regs (payloadReg p) (payloadData p) d } :=
  if_neg fun hswitch => h ((isModeSwitch_iff p).mp hswitch)

/-- Settles O19: mode, reception and command decide the case; a write that is not the command is a `DevWrite`. -/
theorem modeSwitchCompletionCases : Obligations.ModeSwitchCompletionCases := by
  intro s p hwf hturn hbusy hmem
  have hctl : ctlStep s = .next (modeSwitchDone p s) := by simp [ctlStep, hbusy]
  refine ⟨passTurn (modeSwitchDone p s), by rw [step_of_ctlTurn hwf hturn, hctl, onNext_next],
    (modeSwitchDone_frame p s).after_passTurn, ?_, ?_⟩
  · rw [passTurn_ctl]; rfl
  rw [passTurn_dev]
  refine ⟨fun hmode => modeSwitchDone_dev_of_rsb hmode p, fun _ hlost => modeSwitchDone_dev_of_lost hlost p,
    fun hmode hreceived hcommand => ?_, fun hmode hreceived hother => ?_⟩
  · rw [modeSwitchDone_dev_of_received hmode hreceived, devAfterSwitch_of_command hcommand]
  · rw [modeSwitchDone_dev_of_received hmode hreceived, devAfterSwitch_of_write hother]
    exact ⟨rfl, rfl, rfl, fun hplain => memRead_devWrite_plain hmem hplain _ _,
      fun a hne => memRead_devWrite_other hmem _ _ _ hne⟩

/-! ## A transaction's completion as the meaning of its command (R113, R114) -/

section
variable {s : State} {cmd sa da d : Word} (hbusy : s.ctl.busy = .trans cmd sa da d)
include hbusy

theorem exec_cmdSrta_of_trans : exec .cmdSrta s = .next (srtaDone sa s) := by simp [exec, execCmdSrta, hbusy]

theorem exec_cmdRd8_of_trans : exec .cmdRd8 s = .next (rd8Done sa da s) := by simp [exec, execCmdRd8, hbusy]

theorem exec_cmdWr8_of_trans : exec .cmdWr8 s = .next (wr8Done sa da d s) := by simp [exec, execCmdWr8, hbusy]

theorem unsupportedCompletion_of_trans : unsupportedCompletion s = .next (unsupportedDone s) := by
  simp [unsupportedCompletion, hbusy]

end

/-- The four commands that R114 covers have one meaning. -/
theorem exec_of_unused_command {i : Instr} (h : i ∈ [Instr.cmdRd16, .cmdRd32, .cmdWr16, .cmdWr32]) (s : State) :
    exec i s = unsupportedCompletion s := by
  simp only [List.mem_cons, List.not_mem_nil, or_false] at h
  rcases h with rfl | rfl | rfl | rfl <;> rfl

/-- The device registers after an unsupported command end at address 255. -/
theorem memRead_unsupportedDone_beyond (s : State) {a : Nat} (ha : 256 ≤ a) :
    memRead (unsupportedDone s).dev.regs a = Config.unlistedByte := by
  have htable := memRead_memOfTable 0 (drawnBytes s 2 256) a
  rw [Nat.zero_add, List.getD_eq_default _ _ (by simpa using ha)] at htable
  exact htable

/-- Settles O23: the four commands have one completion, and its device registers are a table of drawn bytes. -/
theorem unsupportedCommandsDrawEverything : Obligations.UnsupportedCommandsDrawEverything := by
  intro s cmd sa da d i hbusy hi
  exact ⟨unsupportedDone s, (exec_of_unused_command hi s).trans (unsupportedCompletion_of_trans hbusy),
    unsupportedDone_frame s, rfl, rfl, rfl, rfl, fun a ha => memRead_unsupportedDone s ha,
    fun a ha => memRead_unsupportedDone_beyond s ha⟩

/-! ## The draws of a transaction's completion (R113, R124) -/

/-- Draws for a completion that reports the status `st`, with its effect or without it. -/
def outcomeDraws (st : Word) (effect : Bool) (more : List Word) : List Word := st :: bitIf effect 1 :: more

theorem getLsbD_bitIf_one (b : Bool) : (bitIf b 1).getLsbD 0 = b := by cases b <;> decide

/-- The status is the first draw, but for success where no device was addressed (log 13). -/
theorem reportedStatus_outcomeDraws {s : State} {st : Word} {addressed : Bool}
    (h : st ≠ s.cfg.statSuccess ∨ addressed = true) (effect : Bool) (more : List Word) :
    reportedStatus { s with script := outcomeDraws st effect more } addressed = st :=
  if_neg fun ⟨hsuccess, hunaddressed⟩ => h.elim (· hsuccess) (by simp [hunaddressed])

/-- A failure has its effect or not, as the draws say, whether or not a device was addressed (log 12). -/
theorem hasEffect_outcomeDraws {s : State} {st : Word} (h : st ≠ s.cfg.statSuccess) (addressed effect : Bool)
    (more : List Word) : hasEffect { s with script := outcomeDraws st effect more } addressed = effect := by
  have hstatus := reportedStatus_outcomeDraws (addressed := addressed) (.inl h) effect more
  rw [hasEffect_of_failure (by rw [hstatus]; exact h)]
  exact getLsbD_bitIf_one effect

/-- A RD8 or WR8 matches where the device is in RSB mode at the runtime address of the SADDR word (R118, R119). -/
theorem matchesRt_iff (s : State) (sa : Word) :
    matchesRt s sa = true ↔ s.dev.mode = .rsb ∧ s.dev.rt = some (saddrRta s.cfg sa) := by
  simp [matchesRt]

/-- An SRTA matches where the device is in RSB mode and its hardware address fills the field below the runtime address's
(R117; log 15). -/
theorem matchesHw_iff (s : State) (sa : Word) :
    matchesHw s sa = true ↔
      s.dev.mode = .rsb ∧ sa &&& (1#32 <<< s.cfg.saddrRtaShift) - 1#32 = s.dev.hw.zeroExtend 32 := by
  simp [matchesHw, saddrHw]

/-- A RD8 or WR8 that reports success addressed the device, and had its effect. -/
theorem matchesRt_of_success {s : State} {sa : Word} (h : reportedStatus s (matchesRt s sa) = s.cfg.statSuccess) :
    s.dev.mode = .rsb ∧ s.dev.rt = some (saddrRta s.cfg sa) ∧ hasEffect s (matchesRt s sa) = true := by
  obtain ⟨hmode, hrt⟩ := (matchesRt_iff s sa).mp (addressed_of_reportedStatus h)
  exact ⟨hmode, hrt, hasEffect_of_reportedStatus h⟩

/-! ## SRTA (R117) -/

theorem srtaDone_dev_of_effect {s : State} {sa : Word} (h : hasEffect s (matchesHw s sa) = true) :
    (srtaDone sa s).dev = { s.dev with rt := some (saddrRta s.cfg sa) } := if_pos h

theorem srtaDone_dev_of_no_effect {s : State} {sa : Word} (h : hasEffect s (matchesHw s sa) = false) :
    (srtaDone sa s).dev = s.dev := if_neg (by simp [h])

/-- Settles O20: the status tells of the match and of the effect, and the draws reach success with a match
and, with every failure status, both outcomes. -/
theorem srtaAssignsRuntimeAddress : Obligations.SrtaAssignsRuntimeAddress := by
  intro s cmd sa da d hbusy
  refine ⟨⟨srtaDone sa s, exec_cmdSrta_of_trans hbusy, srtaDone_frame sa s, rfl, fun hsuccess => ?_,
    srtaDone_dev_cases sa s, matchesHw_iff s sa⟩, fun hmatch => ?_, fun st hst => ⟨?_, ?_⟩⟩
  · have heffect := srtaDone_dev_of_effect (hasEffect_of_reportedStatus hsuccess)
    exact ⟨addressed_of_reportedStatus hsuccess, congrArg Dev.rt heffect⟩
  · exact ⟨outcomeDraws s.cfg.statSuccess true [], _, exec_cmdSrta_of_trans hbusy,
      reportedStatus_outcomeDraws (.inr hmatch) true []⟩
  · exact ⟨outcomeDraws st true [], _, exec_cmdSrta_of_trans hbusy, reportedStatus_outcomeDraws (.inl hst) true [],
      srtaDone_dev_of_effect (hasEffect_outcomeDraws hst _ true [])⟩
  · exact ⟨outcomeDraws st false [], _, exec_cmdSrta_of_trans hbusy, reportedStatus_outcomeDraws (.inl hst) false [],
      srtaDone_dev_of_no_effect (hasEffect_outcomeDraws hst _ false [])⟩

/-! ## RD8 (R118) -/

section
variable {s : State} {sa da : Word}

theorem rd8Done_dev_of_effect (h : hasEffect s (matchesRt s sa) = true) :
    (rd8Done sa da s).dev = { s.dev with regs := devReadEffect s.cfg s.dev.regs da.low8 } := if_pos h

theorem rd8Done_dev_of_no_effect (h : hasEffect s (matchesRt s sa) = false) : (rd8Done sa da s).dev = s.dev :=
  if_neg (by simp [h])

theorem rd8Done_data_of_effect (h : hasEffect s (matchesRt s sa) = true) :
    (rd8Done sa da s).ctl.regs.data =
      (peekDraw s 2).extractLsb' 8 24 ++ devReadByte s.cfg s.dev.regs da.low8 (peekByte s 3) := if_pos h

theorem rd8Done_data_of_no_effect (h : hasEffect s (matchesRt s sa) = false) :
    (rd8Done sa da s).ctl.regs.data = peekDraw s 2 := if_neg (by simp [h])

theorem rd8Done_data_low8_of_effect (h : hasEffect s (matchesRt s sa) = true) :
    (rd8Done sa da s).ctl.regs.data.low8 = devReadByte s.cfg s.dev.regs da.low8 (peekByte s 3) := by
  rw [rd8Done_data_of_effect h, Word.low8]
  exact BitVec.setWidth_append_eq_right

theorem rd8Done_data_high_of_effect (h : hasEffect s (matchesRt s sa) = true) :
    (rd8Done sa da s).ctl.regs.data.extractLsb' 8 24 = (peekDraw s 2).extractLsb' 8 24 := by
  rw [rd8Done_data_of_effect h]
  exact BitVec.extractLsb'_append_eq_left

/-- With its effect a RD8 of a plain register delivers its byte. -/
theorem rd8Done_delivers_plain (h : hasEffect s (matchesRt s sa) = true) (hplain : isVolatile s.cfg da.low8 = false) :
    (rd8Done sa da s).ctl.regs.data.low8 = memRead s.dev.regs da.low8.toNat := by
  simp [rd8Done_data_low8_of_effect h, devReadByte, hplain]

theorem rd8Done_delivers_volatile (h : hasEffect s (matchesRt s sa) = true) (hvol : isVolatile s.cfg da.low8 = true) :
    (rd8Done sa da s).ctl.regs.data.low8 = (peekDraw s 3).low8 := by
  simp [rd8Done_data_low8_of_effect h, devReadByte, hvol, peekByte]

theorem memRead_rd8Done_cleared (hmem : Memory.wf s.dev.regs = true) (h : hasEffect s (matchesRt s sa) = true)
    (hclear : da.low8 = s.cfg.devReadClear) : memRead (rd8Done sa da s).dev.regs da.low8.toNat = 0 := by
  rw [rd8Done_dev_of_effect h]
  exact memRead_devReadEffect_cleared hmem hclear

theorem memRead_rd8Done_other (hmem : Memory.wf s.dev.regs = true) {a : Nat}
    (hne : ¬(a = da.low8.toNat ∧ da.low8 = s.cfg.devReadClear)) :
    memRead (rd8Done sa da s).dev.regs a = memRead s.dev.regs a := by
  rcases rd8Done_dev_cases sa da s with hdev | hdev
  · rw [hdev]
  · rw [hdev]; exact memRead_devReadEffect_other hmem s.cfg hne

theorem rd8Done_dev_frame :
    (rd8Done sa da s).dev.mode = s.dev.mode ∧ (rd8Done sa da s).dev.hw = s.dev.hw ∧
      (rd8Done sa da s).dev.rt = s.dev.rt := by
  rcases rd8Done_dev_cases sa da s with hdev | hdev <;> simp [hdev]

end

/-- Settles O21: what the effect and its absence leave is said by the lemmas above; on failure the draws reach both. -/
theorem rd8DeliversDeviceByte : Obligations.Rd8DeliversDeviceByte := by
  intro s cmd sa da d hbusy hmem
  obtain ⟨hmode, hhw, hrt⟩ := rd8Done_dev_frame (s := s) (sa := sa) (da := da)
  refine ⟨⟨rd8Done sa da s, exec_cmdRd8_of_trans hbusy, rd8Done_frame sa da s, rfl, hmode, hhw, hrt,
    matchesRt_of_success,
    fun heffect => ⟨rd8Done_delivers_plain heffect, rd8Done_delivers_volatile heffect,
      rd8Done_data_high_of_effect heffect, memRead_rd8Done_cleared hmem heffect⟩,
    fun a hne => memRead_rd8Done_other hmem hne,
    fun hnone => ⟨rd8Done_dev_of_no_effect hnone, rd8Done_data_of_no_effect hnone⟩⟩, fun st w hst => ⟨?_, ?_⟩⟩
  · have heffect := hasEffect_outcomeDraws hst (matchesRt s sa) true []
    exact ⟨outcomeDraws st true [], rd8Done sa da { s with script := outcomeDraws st true [] }, heffect,
      exec_cmdRd8_of_trans hbusy, reportedStatus_outcomeDraws (.inl hst) true [],
      rd8Done_delivers_plain (s := { s with script := outcomeDraws st true [] }) (sa := sa) (da := da) heffect,
      memRead_rd8Done_cleared (s := { s with script := outcomeDraws st true [] }) (sa := sa) (da := da) hmem heffect⟩
  · have hnone := hasEffect_outcomeDraws hst (matchesRt s sa) false [w]
    exact ⟨outcomeDraws st false [w], _, hnone, exec_cmdRd8_of_trans hbusy,
      reportedStatus_outcomeDraws (.inl hst) false [w], rd8Done_data_of_no_effect hnone, rd8Done_dev_of_no_effect hnone⟩

/-! ## WR8 (R119) -/

section
variable {s : State} {sa da d : Word}

theorem wr8Done_dev_of_effect (h : hasEffect s (matchesRt s sa) = true) :
    (wr8Done sa da d s).dev = { s.dev with regs := devWrite s.cfg s.dev.regs da.low8 d.low8 (peekByte s 2) } := if_pos h

theorem wr8Done_dev_of_no_effect (h : hasEffect s (matchesRt s sa) = false) : (wr8Done sa da d s).dev = s.dev :=
  if_neg (by simp [h])

theorem memRead_wr8Done_plain (hmem : Memory.wf s.dev.regs = true) (h : hasEffect s (matchesRt s sa) = true)
    (hplain : isVolatile s.cfg da.low8 = false) : memRead (wr8Done sa da d s).dev.regs da.low8.toNat = d.low8 := by
  rw [wr8Done_dev_of_effect h]
  exact memRead_devWrite_plain hmem hplain _ _

theorem memRead_wr8Done_volatile (hmem : Memory.wf s.dev.regs = true) (h : hasEffect s (matchesRt s sa) = true)
    (hvol : isVolatile s.cfg da.low8 = true) :
    memRead (wr8Done sa da d s).dev.regs da.low8.toNat = (peekDraw s 2).low8 := by
  rw [wr8Done_dev_of_effect h]
  exact memRead_devWrite_volatile hmem hvol _ _

theorem memRead_wr8Done_other (hmem : Memory.wf s.dev.regs = true) {a : Nat} (hne : a ≠ da.low8.toNat) :
    memRead (wr8Done sa da d s).dev.regs a = memRead s.dev.regs a := by
  rcases wr8Done_dev_cases sa da d s with hdev | hdev
  · rw [hdev]
  · rw [hdev]; exact memRead_devWrite_other hmem s.cfg _ _ hne

theorem wr8Done_dev_frame :
    (wr8Done sa da d s).dev.mode = s.dev.mode ∧ (wr8Done sa da d s).dev.hw = s.dev.hw ∧
      (wr8Done sa da d s).dev.rt = s.dev.rt := by
  rcases wr8Done_dev_cases sa da d s with hdev | hdev <;> simp [hdev]

end

/-- Settles O22: what success tells, and what the effect and its absence leave, are the lemmas above. -/
theorem wr8StoresByte : Obligations.Wr8StoresByte := by
  intro s cmd sa da d hbusy hmem
  obtain ⟨hmode, hhw, hrt⟩ := wr8Done_dev_frame (s := s) (sa := sa) (da := da) (d := d)
  exact ⟨wr8Done sa da d s, exec_cmdWr8_of_trans hbusy, wr8Done_frame sa da d s, rfl, hmode, hhw, hrt, matchesRt_of_success,
    fun heffect => ⟨memRead_wr8Done_plain hmem heffect, memRead_wr8Done_volatile hmem heffect⟩,
    fun a hne => memRead_wr8Done_other hmem hne, wr8Done_dev_of_no_effect⟩

/-- Settles O25: the two scripts differ in the draw that decides the effect. -/
theorem failedWriteAdmitsBothOutcomes : Obligations.FailedWriteAdmitsBothOutcomes := by
  intro s cmd sa da d st hbusy hmem hplain hst
  refine ⟨⟨outcomeDraws st true [], _, exec_cmdWr8_of_trans hbusy, reportedStatus_outcomeDraws (.inl hst) true [], ?_⟩,
    ⟨outcomeDraws st false [], _, exec_cmdWr8_of_trans hbusy, reportedStatus_outcomeDraws (.inl hst) false [], ?_⟩⟩
  · exact memRead_wr8Done_plain hmem (hasEffect_outcomeDraws hst _ true []) hplain
  · exact wr8Done_dev_of_no_effect (hasEffect_outcomeDraws hst _ false [])

end Sys2Proof.Machine
end

section
/-! # 40_controller.md: S polls while C takes no step -/

namespace Sys2Proof.Machine

/-! ## One poll of the operation in flight -/

theorem ne_zero_of_oneBit {w : Word} (h : w.oneBit = true) : w ≠ 0 := by
  simp only [Word.oneBit, Bool.and_eq_true, bne_iff_ne] at h
  exact h.1

theorem triggerMasks_ne_zero {c : RsbConfig} (h : c.wf = true) :
    c.ctrlSoftRst ≠ 0 ∧ c.ctrlStartTrans ≠ 0 ∧ c.pmcrStart ≠ 0 := by
  simp only [RsbConfig.wf, RsbConfig.masksOk, Bool.and_eq_true] at h
  obtain ⟨⟨-, ⟨⟨⟨hreset, hstart⟩, -⟩, hswitch⟩, -⟩, -⟩ := h
  exact ⟨ne_zero_of_oneBit hreset, ne_zero_of_oneBit hstart, ne_zero_of_oneBit hswitch⟩

/-- On a ready platform the poll for an operation in flight reads its trigger bit as 1. -/
theorem readValue_of_waiting {s : State} {m : MicroOp} (hwf : s.cfg.wf = true) (hready : s.platformReady = true)
    (hwait : waitsFor s.cfg s.ctl.busy = some m) :
    ∃ r mask, m = .poll (offsetOf s.cfg r) mask ∧ readValue r s &&& mask ≠ 0 := by
  obtain ⟨hreset, -, hstart, -, hswitch, -⟩ := triggerBitsReadOperationInFlight s hwf hready
  obtain ⟨hresetNe, hstartNe, hswitchNe⟩ := triggerMasks_ne_zero hwf
  cases hbusy : s.ctl.busy with
  | none => simp [hbusy, waitsFor] at hwait
  | resetting =>
    rw [hbusy] at hwait
    exact ⟨.ctrl, _, (Option.some.inj hwait).symm, by rw [hreset hbusy]; exact hresetNe⟩
  | trans cmd sa da d =>
    rw [hbusy] at hwait
    exact ⟨.ctrl, _, (Option.some.inj hwait).symm, by rw [hstart ⟨_, _, _, _, hbusy⟩]; exact hstartNe⟩
  | pmode p =>
    rw [hbusy] at hwait
    exact ⟨.pmcr, _, (Option.some.inj hwait).symm, by rw [hswitch ⟨_, hbusy⟩]; exact hswitchNe⟩

/-- A poll whose bit reads 1 is counted while the budget lasts (41_poll.md R146). -/
theorem pollStep_counts {mask v : Word} {s : State} (hset : v &&& mask ≠ 0)
    (hbudget : s.seq.tries + 1 ≠ s.cfg.pollMaxTries) :
    pollStep mask v s = { s with seq := { s.seq with tries := s.seq.tries + 1 } } := by
  rw [pollStep, if_neg hset, if_neg hbudget]

theorem AtMicroOp.seqStep_eq {m : MicroOp} {s : State} (h : AtMicroOp m s) : seqStep s = runMicroOp m s := by
  have hcurrent : s.seq.mprog[s.seq.mpc]? = some m := h.current
  simp [seqStep, microStep, h.noReset, h.phase, hcurrent]

/-- A step of S that polls the operation in flight counts one read and changes nothing at C or P. -/
theorem AtMicroOp.seqStep_of_waiting {m : MicroOp} {s : State} (h : AtMicroOp m s) (hready : s.platformReady = true)
    (hwait : waitsFor s.cfg s.ctl.busy = some m) (hbudget : s.seq.tries + 1 ≠ s.cfg.pollMaxTries) :
    ∃ r, seqStep s = .next { afterRead r s with seq := { s.seq with tries := s.seq.tries + 1 } } := by
  obtain ⟨r, mask, rfl, hset⟩ := readValue_of_waiting h.cfgWf hready hwait
  refine ⟨r, ?_⟩
  rw [h.seqStep_eq, runMicroOp, mmioRead, regAt_offsetOf h.cfgWf]
  exact congrArg Host.Outcome.next (pollStep_counts hset hbudget)

/-! ## Any number of polls -/

theorem Reaches.zero (s : State) : Reaches 0 s s := rfl

theorem run_succ_of_step {M : Host.Core} {n : Nat} {s u : M.State} (h : M.step s = .next u) :
    M.run (n + 1) s = M.run n u := by
  rw [Host.Core.run, h]

theorem Reaches.head {n : Nat} {s t u : State} (hstep : step s = .next u) (h : Reaches n u t) : Reaches (n + 1) s t :=
  (run_succ_of_step (M := Sys2Proof.core) hstep).trans h

/-- What stays while S polls: the poll of the operation in flight is at the position, and it is S's turn. -/
structure Polling (m : MicroOp) (s : State) : Prop where
  atOp : AtMicroOp m s
  ready : s.platformReady = true
  turn : s.turn = .sequencer
  waits : waitsFor s.cfg s.ctl.busy = some m

/-- One planned turn of S that does not time out keeps it polling. -/
theorem Polling.step_planned {m : MicroOp} {s : State} {plan : List Agent} (h : Polling m s)
    (hplan : s.plan = .sequencer :: plan) (hbudget : s.seq.tries + 1 ≠ s.cfg.pollMaxTries) :
    ∃ u, step s = .next u ∧ Polling m u ∧ u.plan = plan ∧ u.cfg = s.cfg ∧ u.ctl = s.ctl ∧ u.dev = s.dev ∧
      u.seq = { s.seq with tries := s.seq.tries + 1 } := by
  obtain ⟨r, hpoll⟩ := h.atOp.seqStep_of_waiting h.ready h.waits hbudget
  have hstep := step_of_seqTurn h.atOp.cfgWf h.turn
  rw [hpoll, onNext_next] at hstep
  obtain ⟨hturn, hrest⟩ := passTurn_planned
    (s := { afterRead r s with seq := { s.seq with tries := s.seq.tries + 1 } }) hplan
  refine ⟨_, hstep, ⟨⟨?_, ?_, ?_, ?_⟩, ?_, hturn, ?_⟩, hrest, ?_, ?_, ?_, ?_⟩
  · rw [passTurn_cfg]; exact h.atOp.cfgWf
  · rw [passTurn_seqResetIn]; exact h.atOp.noReset
  · rw [passTurn_seq]; exact h.atOp.phase
  · rw [currentOp, passTurn_seq]; exact h.atOp.current
  · rw [passTurn_platformReady]; exact h.ready
  · rw [passTurn_cfg, passTurn_ctl]; exact h.waits
  · rw [passTurn_cfg]; rfl
  · rw [passTurn_ctl]; rfl
  · rw [passTurn_dev]; rfl
  · rw [passTurn_seq]

/-- By induction on the number of planned polls: each is counted, and nothing changes at C or P. -/
theorem Polling.reaches {m : MicroOp} {n : Nat} {s : State} (h : Polling m s) (hplan : s.plan = .replicate n .sequencer)
    (hbudget : s.seq.tries + n < s.cfg.pollMaxTries) :
    ∃ t, Reaches n s t ∧ t.ctl = s.ctl ∧ t.dev = s.dev ∧ t.seq = { s.seq with tries := s.seq.tries + n } := by
  induction n generalizing s with
  | zero => exact ⟨s, .zero s, rfl, rfl, rfl⟩
  | succ n ih =>
    rw [List.replicate_succ] at hplan
    obtain ⟨u, hstep, hpolling, hrest, hcfg, hctl, hdev, hseq⟩ := h.step_planned hplan (by omega)
    have hleft : u.seq.tries + n < u.cfg.pollMaxTries := by
      rw [hcfg, hseq]
      change s.seq.tries + 1 + n < _
      omega
    obtain ⟨t, hreach, htctl, htdev, htseq⟩ := ih hpolling hrest hleft
    refine ⟨t, .head hstep hreach, htctl.trans hctl, htdev.trans hdev, ?_⟩
    simp [htseq, hseq, Nat.add_assoc, Nat.add_comm 1 n]

/-- Settles O26: planning S's turns does not change that it polls. -/
theorem completionNeverForced : Obligations.CompletionNeverForced := by
  intro s m n hat hready hturn hwait hbudget
  have hpolling : Polling m { s with plan := List.replicate n .sequencer } :=
    ⟨⟨hat.cfgWf, hat.noReset, hat.phase, hat.current⟩, hready, hturn, hwait⟩
  exact hpolling.reaches rfl hbudget

end Sys2Proof.Machine
end

section
/-! # 41_poll.md: the micro-ops -/

namespace Sys2Proof.Machine

/-! ## Advancing and the end of a part (R145) -/

theorem advance_before_last {s : State} (h : s.seq.mpc + 1 < s.seq.mprog.length) :
    advance s = { s with seq := { s.seq with mpc := s.seq.mpc + 1 } } := by
  rw [advance, if_neg (Nat.ne_of_lt h)]

theorem advance_at_last {s : State} (h : s.seq.mpc + 1 = s.seq.mprog.length) :
    advance s = partDone { s with seq := { s.seq with mpc := s.seq.mpc + 1 } } := by
  rw [advance, if_pos h]

/-- The operations of one part, READ8 apart, end with a plain OK. -/
theorem partDone_single {s : State} (hsingle : lastStage s.seq.op = 0) (hread : s.seq.op ≠ .read8) :
    partDone s = respond .ok 0 0 s := by
  unfold partDone
  split
  case h_1 hop => exact absurd hop hread
  case h_7 hop => simp [hop, lastStage] at hsingle
  case h_8 hop => simp [hop, lastStage, initLastStage] at hsingle
  all_goals rfl

theorem partDone_rmw_read {s : State} (hop : s.seq.op = .rmw) (hstage : s.seq.stage = 0) :
    partDone s = rmwWritePart s := by
  simp [partDone, hop, hstage]

theorem partDone_init_stage {s : State} (hop : s.seq.op = .init) (hstage : s.seq.stage < initLastStage) :
    partDone s = initNextStage s := by
  simp [partDone, hop, hstage]

/-- Starting a part reads the parameters and S alone. -/
theorem startPart_seq_congr {p : Part} {s t : State} (hcfg : s.cfg = t.cfg) (hseq : s.seq = t.seq) :
    (startPart p s).seq = (startPart p t).seq := by
  cases hok : partOk p with
  | false => simp [startPart_invalid hok, respond, hseq]
  | true => simp [startPart_ok hok, hcfg, hseq]

/-- So does the end of a part. -/
theorem partDone_seq_congr {s t : State} (hcfg : s.cfg = t.cfg) (hseq : s.seq = t.seq) :
    (partDone s).seq = (partDone t).seq := by
  have hrespond (d : Byte) : (respond .ok 0 d s).seq = (respond .ok 0 d t).seq := by simp [respond, hseq]
  have hwrite : (rmwWritePart s).seq = (rmwWritePart t).seq := by
    rw [rmwWritePart, rmwWritePart, hseq]
    exact startPart_seq_congr hcfg rfl
  have hstage : (initNextStage s).seq = (initNextStage t).seq := by
    rw [initNextStage, initNextStage, hseq, hcfg]
    exact startPart_seq_congr rfl rfl
  unfold partDone
  rw [← hseq]
  cases s.seq.op with
  | rmw =>
    dsimp only
    split
    · exact hwrite
    · exact hrespond 0
  | init =>
    dsimp only
    split
    · exact hstage
    · exact hrespond 0
  | read8 => exact hrespond _
  | reset | setSpeed | modeSwitch | assignRta | write8 => exact hrespond 0

theorem respond_responded (kind : RespKind) (code : Word) (data : Byte) (s : State) :
    Responded kind code data (respond kind code data s) :=
  ⟨rfl, rfl, rfl, rfl, rfl, rfl⟩

/-- A response is read off S. -/
theorem Responded.congr {kind : RespKind} {code : Word} {data : Byte} {s t : State} (h : Responded kind code data s)
    (hseq : t.seq = s.seq) : Responded kind code data t := by
  constructor <;> rw [hseq]
  exacts [h.phase, h.valid, h.kind, h.code, h.data, h.tries]

/-! ## WR (R147) -/

theorem decodeTrigger_eq_none {c : RsbConfig} {r : Reg} {v : Word}
    (hctrl : r = .ctrl → v &&& c.ctrlSoftRst = 0 ∧ v &&& c.ctrlStartTrans = 0)
    (hpmcr : r = .pmcr → v &&& c.pmcrStart = 0) :
    decodeTrigger c r v = none := by
  cases r with
  | ctrl => simp [decodeTrigger, decodeCtrl, hctrl rfl]
  | pmcr => simp [decodeTrigger, decodePmcr, hpmcr rfl]
  | _ => rfl

/-- A write that triggers nothing, to any register but STAT, is a plain store (40_controller.md R127). -/
theorem mmioWrite_of_no_trigger {s : State} {off v : Word} {r : Reg} (hreg : regAt s.cfg off = some r) (hstat : r ≠ .stat)
    (hnone : decodeTrigger s.cfg r v = none) : mmioWrite off v s = .next (plainWrite r v s) := by
  cases r with
  | stat => exact absurd rfl hstat
  | _ => simp only [mmioWrite, hreg, writeReg, hnone]

theorem plainWrite_ctl (r : Reg) (v : Word) (s : State) :
    (plainWrite r v s).ctl = { s.ctl with regs := regSet s.ctl.regs r v } := rfl

/-- Settles O27: a word that decodes to no trigger is stored, and the advance is S's own. -/
theorem wrMicroOpWritesAndAdvances : Obligations.WrMicroOpWritesAndAdvances := by
  intro s off v hat
  refine ⟨hat.seqStep_eq, fun r hreg hstat hctrl hpmcr => ?_⟩
  have hwrite := mmioWrite_of_no_trigger hreg hstat (decodeTrigger_eq_none hctrl hpmcr)
  have hstep : seqStep s = .next (advance (plainWrite r v s)) := by
    rw [hat.seqStep_eq, runMicroOp, hwrite, onNext_next]
  refine ⟨_, hstep, ?_, ?_, fun hmore => ?_⟩
  · rw [advance_ctl, plainWrite_ctl]
  · rw [advance_dev, plainWrite_dev]
  · exact congrArg State.seq (advance_before_last (s := plainWrite r v s) hmore)

/-! ## POLL (R146) -/

/-- A poll whose bit reads 0 clears the counter and advances. -/
theorem pollStep_clear {mask v : Word} (s : State) (hclear : v &&& mask = 0) :
    pollStep mask v s = advance { s with seq := { s.seq with tries := 0 } } := by
  rw [pollStep, if_pos hclear]

/-- The budget's last poll responds TIMEOUT when its bit reads 1. -/
theorem pollStep_times_out {mask v : Word} {s : State} (hset : v &&& mask ≠ 0)
    (hlast : s.seq.tries + 1 = s.cfg.pollMaxTries) : pollStep mask v s = respond .timeout 0 0 s := by
  rw [pollStep, if_neg hset, if_pos hlast]

theorem AtMicroOp.seqStep_poll {s : State} {off mask : Word} {r : Reg} (h : AtMicroOp (.poll off mask) s)
    (hreg : regAt s.cfg off = some r) : seqStep s = .next (pollStep mask (readValue r s) (afterRead r s)) := by
  simp only [h.seqStep_eq, runMicroOp, mmioRead, hreg]

/-- Settles O28: the three branches of a poll; a read reaches neither C, P nor S. -/
theorem pollMicroOpCases : Obligations.PollMicroOpCases := by
  intro s off mask r hat hreg
  refine ⟨_, hat.seqStep_poll hreg, pollStep_ctl _ _ _, (pollStep_seqFrame _ _ _).dev, fun hclear hmore => ?_,
    fun hclear hlast => ?_, fun hset hbudget => ?_, fun hset hbudget => ?_⟩
  · exact congrArg State.seq ((pollStep_clear (afterRead r s) hclear).trans (advance_before_last hmore))
  · have hdone := partDone_seq_congr
      (s := { afterRead r s with seq := { s.seq with tries := 0, mpc := s.seq.mpc + 1 } })
      (t := { s with seq := { s.seq with tries := 0, mpc := s.seq.mpc + 1 } }) rfl rfl
    rw [(pollStep_clear (afterRead r s) hclear).trans (advance_at_last hlast)]
    refine ⟨hdone, fun hop => (respond_responded .ok 0 0 _).congr (congrArg State.seq (partDone_single ?_ ?_))⟩
    · rcases hop with hop | hop <;> simp [hop, lastStage]
    · rcases hop with hop | hop <;> simp [hop]
  · rw [pollStep_times_out (s := afterRead r s) hset hbudget]
    exact respond_responded _ _ _ _
  · exact congrArg State.seq (pollStep_counts (s := afterRead r s) hset hbudget)

/-! ## Reads on a ready platform -/

theorem accessFlags_of_ready {s : State} (h : s.platformReady = true) : accessFlags s = s.flags := by
  simp [accessFlags, h]

/-- On a ready platform only a read of CTRL changes anything, as it makes a draw. -/
theorem afterRead_of_ready {s : State} {r : Reg} (h : s.platformReady = true) (hctrl : r ≠ .ctrl) : afterRead r s = s := by
  rw [afterRead, if_neg (by simp [h, hctrl]), accessFlags_of_ready h]
  exact consumeDraws_zero s

/-! ## A trigger bit that never clears (R141) -/

theorem seqRun_succ {n : Nat} {s u : State} (h : seqStep s = .next u) : seqRun (n + 1) s = seqRun n u := by
  rw [seqRun, h]

/-- A run of S goes on at its end. -/
theorem seqRun_snoc {n : Nat} {s t u : State} (hrun : seqRun n s = .next u) (hstep : seqStep u = .next t) :
    seqRun (n + 1) s = .next t := by
  induction n generalizing s with
  | zero =>
    obtain rfl := Host.Outcome.next.inj hrun
    exact seqRun_succ hstep
  | succ n ih =>
    cases hhead : seqStep s with
    | next v =>
      rw [seqRun_succ hhead] at hrun ⊢
      exact ih hrun
    | fault e => simp [seqRun, hhead] at hrun
    | refused e => simp [seqRun, hhead] at hrun

/-- What `j` reads of a bit that stays set leave: the counter is `j` higher, and nothing else that a poll depends on has
moved. -/
structure PolledInVain (j : Nat) (s u : State) : Prop where
  seq : u.seq = { s.seq with tries := s.seq.tries + j }
  cfg : u.cfg = s.cfg
  ctl : u.ctl = s.ctl
  dev : u.dev = s.dev
  flags : u.flags = s.flags
  platformReady : u.platformReady = s.platformReady
  seqResetIn : u.seqResetIn = s.seqResetIn

theorem PolledInVain.zero (s : State) : PolledInVain 0 s s := ⟨rfl, rfl, rfl, rfl, rfl, rfl, rfl⟩

theorem PolledInVain.atMicroOp {j : Nat} {s u : State} {m : MicroOp} (h : PolledInVain j s u) (hat : AtMicroOp m s) :
    AtMicroOp m u := by
  refine ⟨h.cfg ▸ hat.cfgWf, h.seqResetIn.trans hat.noReset, ?_, ?_⟩
  · rw [h.seq]; exact hat.phase
  · rw [currentOp, h.seq]; exact hat.current

/-- One more read that is counted. -/
theorem PolledInVain.read {j : Nat} {s u : State} (h : PolledInVain j s u) (hready : s.platformReady = true) (r : Reg) :
    PolledInVain (j + 1) s { afterRead r u with seq := { u.seq with tries := u.seq.tries + 1 } } where
  seq := by rw [h.seq]; rfl
  cfg := h.cfg
  ctl := h.ctl
  dev := h.dev
  flags := (accessFlags_of_ready (h.platformReady.trans hready)).trans h.flags
  platformReady := h.platformReady
  seqResetIn := h.seqResetIn

/-- By induction on the number of reads: below the budget each is counted. -/
theorem AtMicroOp.seqRun_polledInVain {m : MicroOp} {s : State} (hat : AtMicroOp m s) (hready : s.platformReady = true)
    (hwait : waitsFor s.cfg s.ctl.busy = some m) {j : Nat} (hbudget : s.seq.tries + j < s.cfg.pollMaxTries) :
    ∃ u, seqRun j s = .next u ∧ PolledInVain j s u := by
  induction j with
  | zero => exact ⟨s, rfl, .zero s⟩
  | succ j ih =>
    obtain ⟨u, hrun, hpolled⟩ := ih (by omega)
    have hmore : u.seq.tries + 1 ≠ u.cfg.pollMaxTries := by
      rw [hpolled.seq, hpolled.cfg]
      change s.seq.tries + j + 1 ≠ _
      omega
    obtain ⟨r, hstep⟩ := (hpolled.atMicroOp hat).seqStep_of_waiting (hpolled.platformReady.trans hready)
      (by rw [hpolled.cfg, hpolled.ctl]; exact hwait) hmore
    exact ⟨_, seqRun_snoc hrun hstep, hpolled.read hready r⟩

/-- The last read of the budget responds TIMEOUT when the operation is still in flight. -/
theorem AtMicroOp.seqStep_of_last_read {m : MicroOp} {s : State} (h : AtMicroOp m s) (hready : s.platformReady = true)
    (hwait : waitsFor s.cfg s.ctl.busy = some m) (hlast : s.seq.tries + 1 = s.cfg.pollMaxTries) :
    ∃ r, seqStep s = .next (respond .timeout 0 0 (afterRead r s)) := by
  obtain ⟨r, mask, rfl, hset⟩ := readValue_of_waiting h.cfgWf hready hwait
  refine ⟨r, ?_⟩
  rw [h.seqStep_poll (regAt_offsetOf h.cfgWf r)]
  exact congrArg Host.Outcome.next (pollStep_times_out hset hlast)

/-- Settles O29: T - 1 reads are counted, and the read after them is the budget's last. -/
theorem stuckPollTimesOutAfterExactlyT : Obligations.StuckPollTimesOutAfterExactlyT := by
  intro s m hat hwait hready hzero
  refine ⟨fun j hj => ?_, ?_⟩
  · obtain ⟨u, hrun, hpolled⟩ := hat.seqRun_polledInVain hready hwait (j := j) (by omega)
    exact ⟨u, hrun, by simpa [hzero] using hpolled.seq, hpolled.ctl⟩
  · obtain ⟨n, hn⟩ := Nat.exists_eq_add_one.mpr (pollMaxTries_pos hat.cfgWf)
    obtain ⟨u, hrun, hpolled⟩ := hat.seqRun_polledInVain hready hwait (j := n) (by omega)
    have hready' := hpolled.platformReady.trans hready
    have hlast : u.seq.tries + 1 = u.cfg.pollMaxTries := by simp [hpolled.seq, hpolled.cfg, hzero, hn]
    obtain ⟨r, hstep⟩ := (hpolled.atMicroOp hat).seqStep_of_last_read hready'
      (by rw [hpolled.cfg, hpolled.ctl]; exact hwait) hlast
    rw [hn]
    exact ⟨_, seqRun_snoc hrun hstep, respond_responded _ _ _ _, hpolled.ctl, hpolled.dev,
      (accessFlags_of_ready hready').trans hpolled.flags⟩

/-! ## A trigger bit that has cleared (R141) -/

/-- On a ready platform with nothing in flight any poll for a completion reads its trigger bit as 0. -/
theorem readValue_of_free {s : State} {b : Busy} {m : MicroOp} (hwf : s.cfg.wf = true) (hready : s.platformReady = true)
    (hfree : s.ctl.busy = .none) (hwait : waitsFor s.cfg b = some m) :
    ∃ r mask, m = .poll (offsetOf s.cfg r) mask ∧ readValue r s &&& mask = 0 := by
  obtain ⟨-, hreset, -, hstart, -, hswitch, -⟩ := triggerBitsReadOperationInFlight s hwf hready
  cases b with
  | none => simp [waitsFor] at hwait
  | resetting => exact ⟨.ctrl, _, (Option.some.inj hwait).symm, hreset (by simp [hfree])⟩
  | trans cmd sa da d => exact ⟨.ctrl, _, (Option.some.inj hwait).symm, hstart (by simp [hfree])⟩
  | pmode p => exact ⟨.pmcr, _, (Option.some.inj hwait).symm, hswitch (by simp [hfree])⟩

/-- The end of an INIT stage before the last starts the next, its speed valid (44_init.md R200). -/
theorem partDone_init_seq {s : State} (hop : s.seq.op = .init) (hstage : s.seq.stage < initLastStage)
    (hok : partOk (initPart s.cfg (s.seq.stage + 1)) = true) :
    (partDone s).seq = { s.seq with
      stage := s.seq.stage + 1, mprog := prog s.cfg (initPart s.cfg (s.seq.stage + 1)), mpc := 0, tries := 0 } := by
  rw [partDone_init_stage hop hstage, initNextStage, startPart_ok hok]

/-- Settles O30: a cleared bit is the first branch of a poll, whatever the counter. -/
theorem clearedPollSucceedsAtOnce : Obligations.ClearedPollSucceedsAtOnce := by
  intro s b m hat hwait hready hfree
  obtain ⟨r, mask, rfl, hclear⟩ := readValue_of_free hat.cfgWf hready hfree hwait
  have hreg := regAt_offsetOf hat.cfgWf r
  obtain ⟨t, hstep, hctl, hdev, hmore, hlast, -, -⟩ := pollMicroOpCases s _ mask r hat hreg
  have hflags : t.flags = s.flags := by
    rw [hat.seqStep_poll hreg] at hstep
    obtain rfl := Host.Outcome.next.inj hstep
    rw [pollStep_flags, afterRead_flags, accessFlags_of_ready hready]
  refine ⟨t, hstep, hctl, hdev, hflags, hmore hclear, fun hend hop => ?_, fun hend hop hstage hok => ?_⟩
  · obtain ⟨-, hresponded⟩ := hlast hclear hend
    exact hresponded hop
  · obtain ⟨hseq, -⟩ := hlast hclear hend
    exact hseq.trans (partDone_init_seq hop hstage hok)

/-! ## STATUS (R149) -/

theorem statSuccess_ne_zero {c : RsbConfig} (h : c.wf = true) : c.statSuccess ≠ 0 := by
  simp only [RsbConfig.wf, RsbConfig.successOk, Bool.and_eq_true, bne_iff_ne] at h
  obtain ⟨⟨⟨⟨⟨-, hsuccess⟩, -⟩, -⟩, -⟩, -⟩ := h
  exact hsuccess

theorem AtMicroOp.seqStep_status {s : State} (h : AtMicroOp .status s) (hready : s.platformReady = true) :
    seqStep s = .next (statusStep s.ctl.regs.stat s) := by
  have hreg : regAt s.cfg s.cfg.offStat = some .stat := regAt_offsetOf h.cfgWf .stat
  have hvalue : readValue .stat s = s.ctl.regs.stat := by simp [readValue, hready, regRead, regGet]
  simp only [h.seqStep_eq, runMicroOp, mmioRead, hreg, hvalue, afterRead_of_ready hready (by simp : Reg.stat ≠ .ctrl)]

theorem AtMicroOp.seqStep_status_failure {s : State} (h : AtMicroOp .status s) (hready : s.platformReady = true)
    (hfail : s.ctl.regs.stat ≠ s.cfg.statSuccess) :
    seqStep s = .next (respond .hwStatus s.ctl.regs.stat 0 s) := by
  rw [h.seqStep_status hready, statusStep, if_neg hfail]

/-- Settles O31: the one success code advances; 0 is a failure as a well-formed configuration has another success code. -/
theorem statusMicroOpChecksSentinel : Obligations.StatusMicroOpChecksSentinel := by
  intro s hat hready
  have hsuccess (heq : s.ctl.regs.stat = s.cfg.statSuccess) : seqStep s = .next (advance s) := by
    rw [hat.seqStep_status hready, statusStep, if_pos heq]
  refine ⟨hsuccess, fun heq hlast hop => ?_, fun hne => ?_, fun hzero => ?_⟩
  · refine ⟨_, hsuccess heq, ?_, advance_ctl s, advance_dev s, advance_flags s⟩
    rw [advance_at_last hlast, partDone_single]
    · exact respond_responded _ _ _ _
    · rcases hop with hop | hop <;> simp [hop, lastStage]
    · rcases hop with hop | hop <;> simp [hop]
  · exact ⟨_, hat.seqStep_status_failure hready hne, respond_responded _ _ _ _, rfl, rfl, rfl⟩
  · have hstep := hat.seqStep_status_failure hready (hzero ▸ (statSuccess_ne_zero hat.cfgWf).symm)
    rw [hzero] at hstep
    exact ⟨_, hstep, respond_responded _ _ _ _⟩

/-! ## RDDATA (R148) -/

theorem AtMicroOp.seqStep_rddata {s : State} (h : AtMicroOp .rddata s) (hready : s.platformReady = true) :
    seqStep s = .next (dataStep s.ctl.regs.data s) := by
  have hreg : regAt s.cfg s.cfg.offData = some .data := regAt_offsetOf h.cfgWf .data
  have hvalue : readValue .data s = s.ctl.regs.data := by simp [readValue, hready, regRead, regGet]
  simp only [h.seqStep_eq, runMicroOp, mmioRead, hreg, hvalue, afterRead_of_ready hready (by simp : Reg.data ≠ .ctrl)]

/-- Only READ8's micro-program has an RDDATA, and it is the last micro-op, after the STATUS. -/
theorem prog_rddata_position {c : RsbConfig} {p : Part} {k : Nat} (h : (prog c p)[k]? = some .rddata) :
    (∃ rt reg, p = .read8 rt reg) ∧ k = 6 := by
  cases p with
  | read8 rt reg =>
    refine ⟨⟨rt, reg, rfl⟩, ?_⟩
    rw [prog, List.getElem?_append] at h
    split at h
    next hfront =>
      have hmem := List.mem_of_getElem? h
      simp [startAndWait] at hmem
    next hback =>
      obtain ⟨hk, -⟩ := List.getElem?_eq_some_iff.mp h
      simp [startAndWait] at hback hk
      omega
  | _ =>
    have hmem := List.mem_of_getElem? h
    simp [prog, startAndWait] at hmem

/-- Settles O32: an RDDATA is READ8's last micro-op, and the one before it is the STATUS. -/
theorem rddataMicroOpLatchesLowByte : Obligations.RddataMicroOpLatchesLowByte := by
  refine ⟨fun s hat hready => hat.seqStep_rddata hready, fun c p k hk => ?_⟩
  obtain ⟨⟨rt, reg, rfl⟩, rfl⟩ := prog_rddata_position hk
  exact ⟨5, rfl, rfl⟩

end Sys2Proof.Machine
end

section
/-! # 41_poll.md: every operation ends

`stepsLeft` bounds the steps of S that the operation in RUN has left: those of its micro-program from the position on, less
the reads already counted, and those of the parts to come. Every step of S that goes on lowers it, C and H keep it, and in
RUN it is not 0. -/

namespace Sys2Proof.Machine

/-! ## The steps of micro-programs and parts (R150) -/

/-- The most steps of S a micro-op takes, for the budget `T`. -/
def microOpSteps (T : Nat) (m : MicroOp) : Nat :=
  match m with
  | .poll _ _ => T
  | .wr _ _ | .status | .rddata => 1

/-- The most steps of S a micro-program takes. -/
def programSteps (T : Nat) (ms : List MicroOp) : Nat := (ms.map (microOpSteps T)).sum

/-- The most steps of S a part takes. -/
def partSteps (T : Nat) (p : Part) : Nat :=
  match p with
  | .reset | .modeSwitch _ => 1 + T
  | .setSpeed _ _ => 1
  | .assignRta _ _ => 4 + T
  | .read8 _ _ | .write8 _ _ _ => 6 + T

/-- The most steps of S the parts after this stage of an operation take (43_transactions.md R182, 44_init.md R200). -/
def laterSteps (T : Nat) (op : ReqOp) (stage : Nat) : Nat :=
  match op, stage with
  | .rmw, 0 => 6 + T
  | .init, 0 => 7 + 2 * T
  | .init, 1 => 6 + 2 * T
  | .init, 2 => 5 + T
  | .init, 3 => 4 + T
  | _, _ => 0

theorem programSteps_prog (T : Nat) (c : RsbConfig) (p : Part) : programSteps T (prog c p) = partSteps T p := by
  cases p <;> simp [programSteps, prog, startAndWait, microOpSteps, partSteps] <;> omega

theorem laterSteps_init {stage : Nat} (T : Nat) (c : RsbConfig) (h : stage < initLastStage) :
    laterSteps T .init stage = partSteps T (initPart c (stage + 1)) + laterSteps T .init (stage + 1) := by
  unfold initLastStage at h
  match stage, h with
  | 0, _ | 1, _ | 2, _ | 3, _ => simp only [laterSteps, initPart, partSteps]; omega

/-- R150's table: the acceptance step, the first part and the later ones. -/
theorem opStepsMax_eq {s : State} (hstage : s.seq.stage = 0) (T : Nat) :
    opStepsMax T s.seq.op = 1 + partSteps T (currentPart s) + laterSteps T s.seq.op 0 := by
  unfold currentPart
  cases s.seq.op <;> simp [hstage, opStepsMax, partSteps, laterSteps, initPart] <;> omega

/-! ## The steps an operation has left -/

/-- The most steps of S from micro-op `pc` of the current part to the operation's end. -/
def stepsFrom (pc : Nat) (s : State) : Nat :=
  programSteps s.cfg.pollMaxTries (s.seq.mprog.drop pc) + laterSteps s.cfg.pollMaxTries s.seq.op s.seq.stage

/-- The most steps of S to the operation's end. -/
def stepsLeft (s : State) : Nat := stepsFrom s.seq.mpc s - s.seq.tries

theorem stepsLeft_congr {s t : State} (hcfg : t.cfg = s.cfg) (hseq : t.seq = s.seq) : stepsLeft t = stepsLeft s := by
  simp [stepsLeft, stepsFrom, hcfg, hseq]

theorem stepsFrom_of_currentOp {s : State} {m : MicroOp} (h : currentOp s = some m) :
    stepsFrom s.seq.mpc s = microOpSteps s.cfg.pollMaxTries m + stepsFrom (s.seq.mpc + 1) s := by
  obtain ⟨hlt, hget⟩ := List.getElem?_eq_some_iff.mp h
  simp [stepsFrom, programSteps, List.drop_eq_getElem_cons hlt, hget, Nat.add_assoc]

theorem stepsLeft_startPart {p : Part} {s : State} (hok : partOk p = true) :
    stepsLeft (startPart p s) =
      partSteps s.cfg.pollMaxTries p + laterSteps s.cfg.pollMaxTries s.seq.op s.seq.stage := by
  simp [startPart_ok hok, stepsLeft, stepsFrom, programSteps_prog]

theorem partOk_of_startPart_run {p : Part} {s : State} (h : (startPart p s).seq.phase = .run) : partOk p = true := by
  by_contra hno
  rw [startPart_invalid (by simpa using hno)] at h
  simp at h

/-- An operation that goes on past the end of a part has the later parts left. -/
theorem stepsLeft_partDone {s : State} (h : (partDone s).seq.phase = .run) :
    stepsLeft (partDone s) = laterSteps s.cfg.pollMaxTries s.seq.op s.seq.stage := by
  by_cases hrmw : s.seq.op = .rmw ∧ s.seq.stage = 0
  · obtain ⟨hop, hstage⟩ := hrmw
    rw [partDone_rmw_read hop hstage, rmwWritePart, stepsLeft_startPart rfl]
    simp [hop, hstage, partSteps, laterSteps]
  by_cases hinit : s.seq.op = .init ∧ s.seq.stage < initLastStage
  · obtain ⟨hop, hstage⟩ := hinit
    rw [partDone_init_stage hop hstage, initNextStage] at h ⊢
    rw [stepsLeft_startPart (partOk_of_startPart_run h)]
    simp only [hop]
    exact (laterSteps_init _ _ hstage).symm
  · have hidle : (partDone s).seq.phase = .idle := by
      unfold partDone
      split
      case h_7 hop => rw [if_neg fun hstage => hrmw ⟨hop, hstage⟩]; rfl
      case h_8 hop => rw [if_neg fun hstage => hinit ⟨hop, hstage⟩]; rfl
      all_goals rfl
    simp [hidle] at h

/-- Past a micro-op that leaves no poll counted, an operation that goes on has the steps from the next micro-op left. -/
theorem stepsLeft_advance {s : State} (htries : s.seq.tries = 0) (h : (advance s).seq.phase = .run)
    (hposition : s.seq.mpc < s.seq.mprog.length) : stepsLeft (advance s) = stepsFrom (s.seq.mpc + 1) s := by
  rcases Nat.lt_or_eq_of_le (Nat.succ_le_of_lt hposition) with hmore | hlast
  · rw [advance_before_last hmore]
    simp [stepsLeft, stepsFrom, htries]
  · rw [advance_at_last hlast] at h ⊢
    have hnil : s.seq.mprog.drop (s.seq.mpc + 1) = [] := List.drop_eq_nil_of_le hlast.ge
    rw [stepsLeft_partDone h]
    simp [stepsFrom, hnil, programSteps]

/-- The reads already counted are fewer than the steps of the micro-op S is at (10_state.md R23). -/
theorem SysInv.tries_lt_microOpSteps {s : State} (h : SysInv s) {m : MicroOp} (hop : currentOp s = some m) :
    s.seq.tries < microOpSteps s.cfg.pollMaxTries m := by
  cases m with
  | poll off mask => exact h.triesBelow
  | wr | status | rddata =>
    rw [h.tries_eq_zero hop (by simp)]
    exact Nat.one_pos

/-- In RUN an operation has a step left. -/
theorem SysInv.stepsLeft_pos {s : State} (h : SysInv s) (hrun : s.seq.phase = .run) : 0 < stepsLeft s := by
  obtain ⟨-, hposition, -, -⟩ := h.running hrun
  have hop : currentOp s = some s.seq.mprog[s.seq.mpc] := List.getElem?_eq_getElem hposition
  have htries := h.tries_lt_microOpSteps hop
  rw [stepsLeft, stepsFrom_of_currentOp hop]
  omega

/-! ## A step of S lowers them, C and H keep them -/

/-- S is at the same micro-op of the same part; the counter, the latches and all outside S may differ. -/
structure AtSamePosition (s u : State) : Prop where
  cfg : u.cfg = s.cfg
  op : u.seq.op = s.seq.op
  stage : u.seq.stage = s.seq.stage
  mprog : u.seq.mprog = s.seq.mprog
  mpc : u.seq.mpc = s.seq.mpc

theorem AtSamePosition.of_seq {s u : State} (hcfg : u.cfg = s.cfg) (hseq : u.seq = s.seq) : AtSamePosition s u :=
  ⟨hcfg, congrArg Seq.op hseq, congrArg Seq.stage hseq, congrArg Seq.mprog hseq, congrArg Seq.mpc hseq⟩

theorem AtSamePosition.stepsFrom_eq {s u : State} (h : AtSamePosition s u) (pc : Nat) : stepsFrom pc u = stepsFrom pc s := by
  simp [stepsFrom, h.cfg, h.op, h.stage, h.mprog]

/-- Past the micro-op fewer steps are left than it had left at any count of its reads. -/
theorem SysInv.stepsLeft_advance_lt {s u : State} (h : SysInv s) {m : MicroOp} (hop : currentOp s = some m)
    (hsame : AtSamePosition s u) (htries : u.seq.tries = 0) (hrun : (advance u).seq.phase = .run) :
    stepsLeft (advance u) < stepsLeft s := by
  obtain ⟨hposition, -⟩ := List.getElem?_eq_some_iff.mp hop
  have hcounted := h.tries_lt_microOpSteps hop
  calc stepsLeft (advance u)
      = stepsFrom (s.seq.mpc + 1) s := by
        rw [stepsLeft_advance htries hrun (by rwa [hsame.mpc, hsame.mprog]), hsame.stepsFrom_eq, hsame.mpc]
    _ < stepsLeft s := by rw [stepsLeft, stepsFrom_of_currentOp hop]; omega

theorem SysInv.stepsLeft_pollStep_lt {s : State} (h : SysInv s) {off mask : Word}
    (hop : currentOp s = some (.poll off mask)) (v : Word) (hrun : (pollStep mask v s).seq.phase = .run) :
    stepsLeft (pollStep mask v s) < stepsLeft s := by
  by_cases hclear : v &&& mask = 0
  · rw [pollStep_clear s hclear] at hrun ⊢
    exact h.stepsLeft_advance_lt hop ⟨rfl, rfl, rfl, rfl, rfl⟩ rfl hrun
  by_cases hlast : s.seq.tries + 1 = s.cfg.pollMaxTries
  · rw [pollStep_times_out hclear hlast] at hrun
    cases hrun
  · have hreads : s.cfg.pollMaxTries ≤ stepsFrom s.seq.mpc s := by
      rw [stepsFrom_of_currentOp hop]
      exact Nat.le_add_right _ _
    rw [pollStep_counts hclear hlast]
    exact Nat.sub_lt_sub_left (h.triesBelow.trans_le hreads) (Nat.lt_succ_self _)

theorem SysInv.stepsLeft_statusStep_lt {s : State} (h : SysInv s) (hop : currentOp s = some .status) (v : Word)
    (hrun : (statusStep v s).seq.phase = .run) : stepsLeft (statusStep v s) < stepsLeft s := by
  unfold statusStep at hrun ⊢
  split at hrun
  next hsuccess =>
    rw [if_pos hsuccess]
    exact h.stepsLeft_advance_lt hop (.of_seq rfl rfl) (h.tries_eq_zero hop (by simp)) hrun
  next => cases hrun

/-- A micro-op after which the operation goes on leaves fewer steps. -/
theorem SysInv.stepsLeft_runMicroOp_lt {m : MicroOp} {s t : State} (h : SysInv s) (hop : currentOp s = some m)
    (hmicro : runMicroOp m s = .next t) (hrun : t.seq.phase = .run) : stepsLeft t < stepsLeft s := by
  rcases runMicroOp_cases hmicro with
    ⟨off, v, u, rfl, hwrite, rfl⟩ | ⟨off, mask, r, rfl, -, rfl⟩ | ⟨r, rfl, -, rfl⟩ | ⟨r, rfl, -, rfl⟩
  · have hseq := mmioWrite_seq hwrite
    have hsame := AtSamePosition.of_seq (mmioWrite_seqFrame hwrite).cfg hseq
    exact h.stepsLeft_advance_lt hop hsame (hseq ▸ h.tries_eq_zero hop (by simp)) hrun
  · exact (h.afterRead_sysInv r).stepsLeft_pollStep_lt hop _ hrun
  · exact (h.afterRead_sysInv r).stepsLeft_statusStep_lt hop _ hrun
  · exact h.stepsLeft_advance_lt hop ⟨rfl, rfl, rfl, rfl, rfl⟩ (h.tries_eq_zero hop (by simp)) hrun

/-- The reset line ends the operation, so a step of S in RUN after which it goes on is a micro-op. -/
theorem SysInv.stepsLeft_seqStep_lt {s t : State} (h : SysInv s) (hbefore : s.seq.phase = .run) (hstep : seqStep s = .next t)
    (hafter : t.seq.phase = .run) : stepsLeft t < stepsLeft s := by
  rcases seqStep_cases hstep with
    ⟨-, rfl⟩ | ⟨-, hidle, -, -⟩ | ⟨-, hidle, -⟩ | ⟨-, -, m, hop, hmicro⟩
  · cases hafter
  · simp [hbefore] at hidle
  · simp [hbefore] at hidle
  · exact h.stepsLeft_runMicroOp_lt hop hmicro hafter

/-- A step of the machine in a running operation: S's lowers the steps left, another agent's keeps them. -/
theorem SysInv.stepsLeft_step {s t : State} (h : SysInv s) (hbefore : s.seq.phase = .run) (hstep : step s = .next t)
    (hafter : t.seq.phase = .run) : (if s.turn = .sequencer then 1 else 0) + stepsLeft t ≤ stepsLeft s := by
  split
  next hturn =>
    rw [step_of_seqTurn h.cfgWf hturn, onNext_eq_next] at hstep
    obtain ⟨u, hseq, rfl⟩ := hstep
    rw [passTurn_seq] at hafter
    have hlt := h.stepsLeft_seqStep_lt hbefore hseq hafter
    rw [stepsLeft_congr (passTurn_cfg u) (passTurn_seq u)]
    omega
  next hturn =>
    obtain ⟨hcfg, -, -⟩ := launchParametersNeverChange s t hstep
    have hseq := onlySequencerChangesItself s t hstep hturn
    rw [stepsLeft_congr hcfg hseq, Nat.zero_add]

/-! ## The statement -/

/-- The operation is in RUN for `n` steps of the machine on end. -/
def RunsFor (n : Nat) (s : State) : Prop := ∀ k, k ≤ n → ∃ u, Reaches k s u ∧ u.seq.phase = .run

theorem RunsFor.running {n : Nat} {s : State} (h : RunsFor n s) : s.seq.phase = .run := by
  obtain ⟨u, hreach, hrun⟩ := h 0 (Nat.zero_le n)
  obtain rfl := Host.Outcome.next.inj hreach
  exact hrun

/-- The first of the steps, and the others after it. -/
theorem RunsFor.step {n : Nat} {s : State} (h : RunsFor (n + 1) s) : ∃ t, step s = .next t ∧ RunsFor n t := by
  obtain ⟨u, hreach, -⟩ := h 1 (by omega)
  cases hstep : Machine.step s with
  | next t =>
    refine ⟨t, rfl, fun k hk => ?_⟩
    obtain ⟨v, hv, hrun⟩ := h (k + 1) (by omega)
    exact ⟨v, (run_succ_of_step (M := Sys2Proof.core) hstep).symm.trans hv, hrun⟩
  | fault e => simp [Reaches, Host.Core.run, core, hstep] at hreach
  | refused e => simp [Reaches, Host.Core.run, core, hstep] at hreach

/-- By induction on the steps of the machine: those of S are paid from the steps left, and one is left over. -/
theorem SysInv.seqTurns_lt_stepsLeft {n : Nat} {s : State} (h : SysInv s) (hruns : RunsFor n s) :
    seqTurns n s < stepsLeft s := by
  induction n generalizing s with
  | zero => exact h.stepsLeft_pos hruns.running
  | succ n ih =>
    obtain ⟨t, hstep, hrest⟩ := hruns.step
    have hpaid := h.stepsLeft_step hruns.running hstep hrest.running
    have hlater := ih (stepKeepsSysInv s t h hstep) hrest
    simp only [seqTurns, hstep]
    omega

/-- An operation just accepted has all the steps of R150's table left but the acceptance itself. -/
theorem SysInv.stepsLeft_of_justAccepted {s : State} (h : SysInv s) (hjust : JustAccepted s) :
    stepsLeft s + 1 = opStepsMax s.cfg.pollMaxTries s.seq.op := by
  obtain ⟨hrun, hmpc, htries, hstage⟩ := hjust
  obtain ⟨hprog, -, -, -⟩ := h.running hrun
  rw [opStepsMax_eq hstage, stepsLeft, stepsFrom, hmpc, htries, hstage, List.drop_zero, hprog, programSteps_prog]
  omega

/-- Settles O43: the steps left pay for S's, whoever else moves between them. -/
theorem operationsEndWithinBound : Obligations.OperationsEndWithinBound := by
  intro n s h hjust hruns
  have hlt : seqTurns n s < stepsLeft s := h.seqTurns_lt_stepsLeft hruns
  have hall := h.stepsLeft_of_justAccepted hjust
  omega

end Sys2Proof.Machine
end

section
/-! # 42_bus_controller_ops.md: reset, initialisation and speed -/

namespace Sys2Proof.Machine

/-! ## RESET and INIT (R160, R200) -/

/-- Settles O6: both start with the part RESET, which has no check and latches no operand. -/
theorem resetAndInitAccepted : Obligations.ResetAndInitAccepted := by
  intro s hidle
  refine ⟨?_, ?_⟩
  · obtain ⟨t, hexec, hsame, -, hstarted⟩ := exec_started (i := .rsbReset) rfl hidle ⟨rfl, rfl, rfl, rfl, rfl⟩ rfl
    exact ⟨t, hexec, hsame, hstarted⟩
  · obtain ⟨t, hexec, hsame, -, hstarted⟩ := exec_started (i := .rsbInit) rfl hidle ⟨rfl, rfl, rfl, rfl, rfl⟩ rfl
    exact ⟨t, hexec, hsame, hstarted⟩

/-! ## The check of SET_SPEED and its CCR value (R161, R83) -/

theorem speedOk_iff (src bus : Word) : speedOk src bus = true ↔ bus ≠ 0 ∧ 2 ≤ src.toNat / bus.toNat := by
  simp [speedOk]

theorem speedOk_eq_false_iff (src bus : Word) : speedOk src bus = false ↔ bus = 0 ∨ src.toNat / bus.toNat < 2 := by
  rw [← Bool.not_eq_true, speedOk_iff, not_and_or, not_not, Nat.not_le]

/-- The clock divider of a valid speed: half the divisor is at least 1 and the divisor a 32-bit word, so that neither the
subtraction nor the word wraps. -/
theorem toNat_clkDiv_add_one {src bus : Word} (h : 2 ≤ src.toNat / bus.toNat) :
    (BitVec.ofNat 32 (src.toNat / bus.toNat / 2 - 1)).toNat + 1 = src.toNat / bus.toNat / 2 := by
  have hdivisor : src.toNat / bus.toNat ≤ src.toNat := Nat.div_le_self _ _
  have hword := src.isLt
  rw [BitVec.toNat_ofNat, Nat.mod_eq_of_lt (by omega)]
  omega

theorem or_and_self_right {n : Nat} (v m : BitVec n) : (v ||| m) &&& m = m := by
  ext i hi
  simpa using .inr

/-! ## SET_SPEED is accepted (R161) -/

/-- A valid speed is accepted with its operands latched and the one CCR write to come. -/
theorem exec_rsbSpeed_started {s : State} {src bus : Word} (hidle : s.seq.phase = .idle) (hok : speedOk src bus = true) :
    ∃ t, exec (.rsbSpeed src bus) s = .next t ∧ OutsideSame s t ∧ t.seq.src = src ∧ t.seq.bus = bus ∧
      Started .setSpeed [.wr s.cfg.offCcr (ccrValue s.cfg src bus)] s t := by
  obtain ⟨t, hexec, hsame, hseq, hstarted⟩ :=
    exec_started (i := .rsbSpeed src bus) rfl hidle ⟨rfl, rfl, rfl, rfl, rfl⟩ hok
  exact ⟨t, hexec, hsame, congrArg Seq.src hseq, congrArg Seq.bus hseq, hstarted⟩

/-- Settles O9: the value the micro-program carries is the clock divider with the delay bit. -/
theorem validSpeedAccepted : Obligations.ValidSpeedAccepted := by
  intro s src bus hidle hbus hdivisor
  obtain ⟨t, hexec, hsame, hsrc, hbusLatched, hstarted⟩ :=
    exec_rsbSpeed_started hidle ((speedOk_iff src bus).mpr ⟨hbus, hdivisor⟩)
  exact ⟨t, _, hexec, hsame, hsrc, hbusLatched, hstarted, toNat_clkDiv_add_one hdivisor, or_and_self_right _ _⟩

/-- An operation whose first part fails its check is answered in the step that accepts it. -/
theorem accept_invalid {p : Part} (hinvalid : partOk p = false) (op : ReqOp) (q : Seq) (s : State) :
    accept op q p s =
      respond .invalidArgument 0 0 (consumeDraws 9 { s with request := none, seq := acceptedSeq op q }) := by
  rw [accept_eq_startPart, startPart_invalid hinvalid]

/-- Settles O10: the failing check answers within acceptance, which changes nothing outside S. -/
theorem invalidSpeedAnswered : Obligations.InvalidSpeedAnswered := by
  intro s src bus hidle hinvalid
  have hanswered := accept_invalid (p := .setSpeed src bus) ((speedOk_eq_false_iff src bus).mpr hinvalid) .setSpeed
    { freshLatches s with src := src, bus := bus } s
  refine ⟨_, acceptWhenIdle_idle hidle _ _ _, accept_outsideSame _ _ _ s, accept_request _ _ _ s, ?_, ?_⟩
  · rw [hanswered]; rfl
  · rw [hanswered]; exact respond_responded _ _ _ _

/-! ## SET_SPEED to its end (R161) -/

/-- Right after acceptance S is at the first micro-op of the program loaded. -/
theorem AtRequest.atMicroOp_of_started {r : Request} {s t : State} {op : ReqOp} {m : MicroOp} {ms : List MicroOp}
    (hat : AtRequest r s) (hsame : OutsideSame s t) (hstarted : Started op (m :: ms) s t) : AtMicroOp m t where
  cfgWf := hsame.cfg ▸ hat.cfgWf
  noReset := hsame.seqResetIn.trans hat.noReset
  phase := hstarted.phase
  current := by simp [currentOp, hstarted.mprog, hstarted.mpc]

/-- S's step at a write that triggers nothing is a plain store and an advance. -/
theorem AtMicroOp.seqStep_plainWrite {s : State} {r : Reg} {v : Word} (h : AtMicroOp (.wr (offsetOf s.cfg r) v) s)
    (hstat : r ≠ .stat) (hnone : decodeTrigger s.cfg r v = none) : seqStep s = .next (advance (plainWrite r v s)) := by
  rw [h.seqStep_eq, runMicroOp, mmioWrite_of_no_trigger (regAt_offsetOf h.cfgWf r) hstat hnone, onNext_next]

/-- SET_SPEED ends with its one write. -/
theorem advance_responded_of_setSpeed {s : State} (hop : s.seq.op = .setSpeed)
    (hlast : s.seq.mpc + 1 = s.seq.mprog.length) : Responded .ok 0 0 (advance s) := by
  rw [advance_at_last hlast, partDone_single (by simp [hop, lastStage]) (by simp [hop])]
  exact respond_responded _ _ _ _

/-- Settles O33: acceptance leaves S at the CCR write, and that write is the last micro-op. -/
theorem speedOperationProgramsCcr : Obligations.SpeedOperationProgramsCcr := by
  intro s r src bus hat hdecode hbus hdivisor
  obtain ⟨u, hexec, hsame, -, -, hstarted⟩ :=
    exec_rsbSpeed_started hat.phase ((speedOk_iff src bus).mpr ⟨hbus, hdivisor⟩)
  have haccept : seqStep s = .next u := (hat.seqStep_of_decode hdecode).trans hexec
  have hatWrite : AtMicroOp (.wr (offsetOf u.cfg .ccr) (ccrValue s.cfg src bus)) u := by
    rw [hsame.cfg]
    exact hat.atMicroOp_of_started hsame hstarted
  have hwrite := hatWrite.seqStep_plainWrite (by simp) rfl
  have hlast : u.seq.mpc + 1 = u.seq.mprog.length := by simp [hstarted.mpc, hstarted.mprog]
  refine ⟨_, seqRun_snoc (seqRun_succ haccept) hwrite, advance_responded_of_setSpeed hstarted.op hlast, ?_, ?_⟩
  · rw [advance_dev, plainWrite_dev, hsame.dev]
  · rw [advance_ctl, plainWrite_ctl, hsame.ctl]
    rfl

end Sys2Proof.Machine
end

section
/-! # 40_controller.md R125: runs whose turns are planned

No agent's step reads the schedule, so a run with planned turns is the agents' own steps, one after another. -/

namespace Sys2Proof.Machine

/-! ## A machine under another machine's schedule -/

/-- The machine `s` under the schedule of `g`. -/
def rescheduled (g s : State) : State := { s with turn := g.turn, plan := g.plan, planIndex := g.planIndex }

theorem rescheduled_self (s : State) : rescheduled s s = s := rfl

@[simp] theorem rescheduled_cfg (g s : State) : (rescheduled g s).cfg = s.cfg := rfl
@[simp] theorem rescheduled_seq (g s : State) : (rescheduled g s).seq = s.seq := rfl
@[simp] theorem rescheduled_ctl (g s : State) : (rescheduled g s).ctl = s.ctl := rfl
@[simp] theorem rescheduled_dev (g s : State) : (rescheduled g s).dev = s.dev := rfl
@[simp] theorem rescheduled_flags (g s : State) : (rescheduled g s).flags = s.flags := rfl
@[simp] theorem rescheduled_request (g s : State) : (rescheduled g s).request = s.request := rfl
@[simp] theorem rescheduled_seqResetIn (g s : State) : (rescheduled g s).seqResetIn = s.seqResetIn := rfl
@[simp] theorem rescheduled_host (g s : State) : (rescheduled g s).host = s.host := rfl

theorem passTurn_rescheduled (g s : State) : passTurn (rescheduled g s) = rescheduled (passTurn g) s := by
  cases hplan : g.plan <;> simp [passTurn, rescheduled, hplan]

theorem startPart_rescheduled (g : State) (p : Part) (s : State) :
    startPart p (rescheduled g s) = rescheduled g (startPart p s) := by
  unfold startPart
  rw [apply_ite (rescheduled g)]
  rfl

theorem rmwWritePart_rescheduled (g s : State) : rmwWritePart (rescheduled g s) = rescheduled g (rmwWritePart s) :=
  startPart_rescheduled g _ { s with seq := { s.seq with old := s.seq.data, stage := 1 } }

theorem initNextStage_rescheduled (g s : State) : initNextStage (rescheduled g s) = rescheduled g (initNextStage s) :=
  startPart_rescheduled g _ { s with seq := { s.seq with stage := s.seq.stage + 1 } }

theorem partDone_rescheduled (g s : State) : partDone (rescheduled g s) = rescheduled g (partDone s) := by
  simp only [partDone, rescheduled_seq, rmwWritePart_rescheduled, initNextStage_rescheduled]
  split
  case h_7 => split <;> rfl
  case h_8 => split <;> rfl
  all_goals rfl

theorem advance_rescheduled (g s : State) : advance (rescheduled g s) = rescheduled g (advance s) := by
  unfold advance
  rw [apply_ite (rescheduled g)]
  exact if_congr Iff.rfl (partDone_rescheduled g { s with seq := { s.seq with mpc := s.seq.mpc + 1 } }) rfl

theorem pollStep_rescheduled (g : State) (mask v : Word) (s : State) :
    pollStep mask v (rescheduled g s) = rescheduled g (pollStep mask v s) := by
  unfold pollStep
  rw [apply_ite (rescheduled g), apply_ite (rescheduled g)]
  exact if_congr Iff.rfl (advance_rescheduled g { s with seq := { s.seq with tries := 0 } }) rfl

theorem statusStep_rescheduled (g : State) (v : Word) (s : State) :
    statusStep v (rescheduled g s) = rescheduled g (statusStep v s) := by
  unfold statusStep
  rw [apply_ite (rescheduled g)]
  exact if_congr Iff.rfl (advance_rescheduled g s) rfl

theorem dataStep_rescheduled (g : State) (v : Word) (s : State) :
    dataStep v (rescheduled g s) = rescheduled g (dataStep v s) :=
  advance_rescheduled g { s with seq := { s.seq with data := v.low8 } }

theorem acceptWhenIdle_rescheduled (g : State) (op : ReqOp) (q : Seq) (p : Part) (s : State) :
    acceptWhenIdle op q p (rescheduled g s) = onNext (acceptWhenIdle op q p s) (rescheduled g) := by
  unfold acceptWhenIdle
  rw [rescheduled_seq]
  split
  · exact congrArg Host.Outcome.next
      (startPart_rescheduled g p (consumeDraws 9 { s with request := none, seq := acceptedSeq op q }))
  · rfl

theorem drawnBytes_rescheduled (g s : State) (k n : Nat) : drawnBytes (rescheduled g s) k n = drawnBytes s k n := by
  induction n generalizing k with
  | zero => rfl
  | succ n ih => exact congrArg (peekByte s k :: ·) (ih (k + 1))

theorem unsupportedDone_rescheduled (g s : State) :
    unsupportedDone (rescheduled g s) = rescheduled g (unsupportedDone s) := by
  rw [unsupportedDone, drawnBytes_rescheduled]
  rfl

theorem exec_rescheduled (g : State) (i : Instr) (s : State) :
    exec i (rescheduled g s) = onNext (exec i s) (rescheduled g) := by
  cases i
  case cmdSrta => simp only [exec, execCmdSrta, rescheduled_ctl]; split <;> rfl
  case cmdRd8 => simp only [exec, execCmdRd8, rescheduled_ctl]; split <;> rfl
  case cmdWr8 => simp only [exec, execCmdWr8, rescheduled_ctl]; split <;> rfl
  case cmdRd16 | cmdRd32 | cmdWr16 | cmdWr32 =>
    simp only [exec, execCmdRd16, execCmdRd32, execCmdWr16, execCmdWr32, unsupportedCompletion, rescheduled_ctl,
      unsupportedDone_rescheduled]
    split <;> rfl
  case ctrlSoftRst | ctrlStartTrans | pmcrStart => rfl
  all_goals exact acceptWhenIdle_rescheduled g _ _ _ s

theorem mmioWrite_rescheduled (g : State) (off v : Word) (s : State) :
    mmioWrite off v (rescheduled g s) = onNext (mmioWrite off v s) (rescheduled g) := by
  unfold mmioWrite
  rw [rescheduled_cfg]
  split
  next r _ =>
    cases r with
    | stat => rfl
    | _ =>
      simp only [writeReg, rescheduled_cfg]
      split
      · exact exec_rescheduled g _ s
      · rfl
  next => rfl

theorem mmioRead_rescheduled (g : State) (off : Word) {use : Word → State → State}
    (huse : ∀ v u, use v (rescheduled g u) = rescheduled g (use v u)) (s : State) :
    mmioRead off use (rescheduled g s) = onNext (mmioRead off use s) (rescheduled g) := by
  unfold mmioRead
  rw [rescheduled_cfg]
  split
  · exact congrArg Host.Outcome.next (huse _ (afterRead _ s))
  · rfl

theorem onNext_onNext (o : Host.Outcome State Fault Refusal) (f g : State → State) :
    onNext (onNext o f) g = onNext o fun s => g (f s) := by
  cases o <;> rfl

theorem runMicroOp_rescheduled (g : State) (m : MicroOp) (s : State) :
    runMicroOp m (rescheduled g s) = onNext (runMicroOp m s) (rescheduled g) := by
  cases m with
  | wr off v => simp only [runMicroOp, mmioWrite_rescheduled, onNext_onNext, advance_rescheduled]
  | poll off mask => exact mmioRead_rescheduled g off (pollStep_rescheduled g mask) s
  | status => exact mmioRead_rescheduled g s.cfg.offStat (statusStep_rescheduled g) s
  | rddata => exact mmioRead_rescheduled g s.cfg.offData (dataStep_rescheduled g) s

theorem seqStep_rescheduled (g s : State) : seqStep (rescheduled g s) = onNext (seqStep s) (rescheduled g) := by
  simp only [seqStep, idleStep, microStep, rescheduled_seq, rescheduled_request, rescheduled_seqResetIn,
    exec_rescheduled, runMicroOp_rescheduled]
  split
  · rfl
  · split
    · split
      · rfl
      · split <;> rfl
    · split <;> rfl

theorem ctlStep_rescheduled (g s : State) : ctlStep (rescheduled g s) = onNext (ctlStep s) (rescheduled g) := by
  simp only [ctlStep, rescheduled_cfg, rescheduled_ctl, exec_rescheduled, unsupportedDone_rescheduled]
  split
  case h_4 => split <;> rfl
  all_goals rfl

theorem hostStep_rescheduled (g s : State) : hostStep (rescheduled g s) = rescheduled g (hostStep s) := by
  have hfree : portFree (rescheduled g s) = portFree s := rfl
  have hread : hostReadResponse (rescheduled g s) = rescheduled g (hostReadResponse s) := by
    unfold hostReadResponse
    rw [apply_ite (rescheduled g)]
    rfl
  have hpresent : hostPresent (rescheduled g s) = rescheduled g (hostPresent s) := by
    simp only [hostPresent, rescheduled_host]
    split <;> rfl
  simp only [hostStep, rescheduled_host, hfree, hread, hpresent]
  split
  · rfl
  · rfl
  · rw [apply_ite (rescheduled g), apply_ite (rescheduled g)]

/-! ## The agents' steps, whoever's turn it is -/

/-- The step of the agent `a`. -/
def stepOf (a : Agent) (s : State) : Host.Outcome State Fault Refusal :=
  match a with
  | .sequencer => seqStep s
  | .controller => ctlStep s
  | .host => .next (hostStep s)

theorem agentStep_eq_stepOf (s : State) : agentStep s = stepOf s.turn s := rfl

theorem stepOf_rescheduled (g : State) (a : Agent) (s : State) :
    stepOf a (rescheduled g s) = onNext (stepOf a s) (rescheduled g) := by
  cases a with
  | sequencer => exact seqStep_rescheduled g s
  | controller => exact ctlStep_rescheduled g s
  | host => exact congrArg Host.Outcome.next (hostStep_rescheduled g s)

theorem stepOf_cfg {a : Agent} {s t : State} (h : stepOf a s = .next t) : t.cfg = s.cfg := by
  cases a with
  | sequencer => exact (seqStep_seqFrame h).cfg
  | controller => exact (ctlStep_ctlFrame h).cfg
  | host =>
    obtain rfl := Host.Outcome.next.inj h
    exact (hostStep_hostFrame s).cfg

/-- The agents `as`, taking one step each in this order, lead from `s` to `t`. -/
def RunBy (as : List Agent) (s t : State) : Prop :=
  match as with
  | [] => s = t
  | a :: as => ∃ u, stepOf a s = .next u ∧ RunBy as u t

theorem RunBy.cons {a : Agent} {as : List Agent} {s t u : State} (h : stepOf a s = .next u) (hrun : RunBy as u t) :
    RunBy (a :: as) s t := ⟨u, h, hrun⟩

theorem RunBy.single {a : Agent} {s t : State} (h : stepOf a s = .next t) : RunBy [a] s t := ⟨t, h, rfl⟩

theorem RunBy.append {as bs : List Agent} {s t u : State} (h : RunBy as s t) (hrun : RunBy bs t u) :
    RunBy (as ++ bs) s u := by
  induction as generalizing s with
  | nil => obtain rfl := h; exact hrun
  | cons a as ih =>
    obtain ⟨v, hstep, hrest⟩ := h
    exact .cons hstep (ih hrest)

theorem Planned.passTurn {a : Agent} {as : List Agent} {s : State} (h : Planned (a :: as) s) : Planned as (passTurn s) := by
  obtain ⟨rest, hturns⟩ := h
  obtain ⟨-, hplan⟩ := List.cons.inj hturns
  cases as with
  | nil => exact ⟨_, rfl⟩
  | cons b as =>
    obtain ⟨hturn, hrest⟩ := passTurn_planned hplan
    exact ⟨rest, by rw [hturn, hrest]; rfl⟩

/-- The machine's steps on planned turns are the agents' own. -/
theorem RunBy.reaches {as : List Agent} {s t : State} (h : RunBy as s t) (hwf : s.cfg.wf = true) {g : State}
    (hplan : Planned as g) : ∃ g', Reaches as.length (rescheduled g s) (rescheduled g' t) := by
  induction as generalizing s g with
  | nil => obtain rfl := h; exact ⟨g, .zero _⟩
  | cons a as ih =>
    obtain ⟨u, hstep, hrest⟩ := h
    have hturn : g.turn = a := by
      obtain ⟨rest, hturns⟩ := hplan
      exact (List.cons.inj hturns).1
    have hmachine : step (rescheduled g s) = .next (rescheduled (passTurn g) u) := by
      have hagent : agentStep (rescheduled g s) = .next (rescheduled g u) := by
        rw [agentStep_eq_stepOf, stepOf_rescheduled]
        exact congrArg (onNext · (rescheduled g)) (hturn ▸ hstep)
      rw [step, if_pos (show (rescheduled g s).cfg.wf = true from hwf), hagent, onNext_next, passTurn_rescheduled]
    obtain ⟨g', hreach⟩ := ih hrest (stepOf_cfg hstep ▸ hwf) hplan.passTurn
    exact ⟨g', .head hmachine hreach⟩

theorem RunBy.reaches_of_planned {as : List Agent} {s t : State} (h : RunBy as s t) (hwf : s.cfg.wf = true)
    (hplan : Planned as s) : ∃ g, Reaches as.length s (rescheduled g t) := by
  obtain ⟨g, hreach⟩ := h.reaches hwf hplan
  rw [rescheduled_self] at hreach
  exact ⟨g, hreach⟩

end Sys2Proof.Machine
end

section
/-! # 43_transactions.md: READ8, WRITE8 and RMW

A part of a transaction is its setup, plain writes one after another, and then start, completion, poll and status check.
Both are run once, for any setup and for any completion that reports success. The READ8 and the WRITE8 part are these with
their own setup and completion, and an RMW is the two parts one after the other. -/

namespace Sys2Proof.Machine

/-! ## A part that fails (R182, R200) -/

/-- Settles O39: a failed STATUS and a poll's last read respond in the step itself, and a response keeps the stage. -/
theorem failedPartEndsComposite : Obligations.FailedPartEndsComposite := by
  intro s _
  refine ⟨fun hat hready hfail => ?_, fun m hat hwait hready hlast => ?_⟩
  · exact ⟨_, hat.seqStep_status_failure hready hfail, respond_responded _ _ _ _, rfl, rfl, rfl⟩
  · obtain ⟨r, hstep⟩ := hat.seqStep_of_last_read hready hwait hlast
    exact ⟨_, hstep, respond_responded _ _ _ _, rfl, rfl, rfl⟩

/-! ## Micro-ops to come -/

/-- S runs on a ready platform, with the micro-ops `ms` of its part to come and no poll counted. -/
structure HasToRun (ms : List MicroOp) (s : State) : Prop where
  cfgWf : s.cfg.wf = true
  noReset : s.seqResetIn = false
  ready : s.platformReady = true
  phase : s.seq.phase = .run
  tries : s.seq.tries = 0
  toCome : s.seq.mprog.drop s.seq.mpc = ms

section
variable {m : MicroOp} {ms : List MicroOp} {s t : State}

theorem HasToRun.atMicroOp (h : HasToRun (m :: ms) s) : AtMicroOp m s := by
  refine ⟨h.cfgWf, h.noReset, h.phase, ?_⟩
  rw [currentOp, ← List.head?_drop, h.toCome, List.head?_cons]

/-- What comes after the micro-op at the position. -/
theorem HasToRun.tail (h : HasToRun (m :: ms) s) (hcfg : t.cfg = s.cfg) (hreset : t.seqResetIn = s.seqResetIn)
    (hready : t.platformReady = s.platformReady) (hseq : t.seq = { s.seq with mpc := s.seq.mpc + 1 }) : HasToRun ms t where
  cfgWf := hcfg ▸ h.cfgWf
  noReset := hreset.trans h.noReset
  ready := hready.trans h.ready
  phase := by rw [hseq]; exact h.phase
  tries := by rw [hseq]; exact h.tries
  toCome := by rw [hseq, ← List.tail_drop, h.toCome, List.tail_cons]

theorem HasToRun.length (h : HasToRun ms s) : s.seq.mprog.length - s.seq.mpc = ms.length := by
  rw [← h.toCome, List.length_drop]

theorem HasToRun.advance_eq (h : HasToRun (m :: ms) s) (hmore : ms ≠ []) (hseq : t.seq = s.seq) :
    advance t = { t with seq := { s.seq with mpc := s.seq.mpc + 1 } } := by
  have hlength := h.length
  have hpos := List.length_pos_iff.mpr hmore
  rw [List.length_cons] at hlength
  rw [advance_before_last (by rw [hseq]; omega), hseq]

theorem HasToRun.advance_last (h : HasToRun [m] s) (hmprog : t.seq.mprog = s.seq.mprog) (hmpc : t.seq.mpc = s.seq.mpc) :
    advance t = partDone { t with seq := { t.seq with mpc := t.seq.mpc + 1 } } := by
  have hlength := h.length
  simp only [List.length_cons, List.length_nil] at hlength
  exact advance_at_last (by rw [hmprog, hmpc]; omega)

end

/-- A READ8 part ends with STATUS and RDDATA: with the status checked, the part ends with the low byte of DATA latched. -/
theorem HasToRun.rddata_run {s : State} (h : HasToRun [.status, .rddata] s) :
    RunBy [.sequencer] (advance s)
      (partDone { s with seq := { s.seq with mpc := s.seq.mpc + 2, data := s.ctl.regs.data.low8 } }) := by
  have hadvance := h.advance_eq (t := s) (by simp) rfl
  have hrddata : HasToRun [.rddata] (advance s) := h.tail (by simp) (by simp) (by simp) (by rw [hadvance])
  have hlast := hrddata.advance_last
    (t := { advance s with seq := { (advance s).seq with data := (advance s).ctl.regs.data.low8 } }) rfl rfl
  refine .single ((hrddata.atMicroOp.seqStep_rddata hrddata.ready).trans (congrArg Host.Outcome.next ?_))
  rw [dataStep, hlast, hadvance]

/-! ## The setup: plain writes one after another -/

/-- The micro-op that writes a word to a register. -/
def writeOp (c : RsbConfig) (w : Reg × Word) : MicroOp := .wr (offsetOf c w.1) w.2

theorem writeFlags_of_ready {s : State} (hready : s.platformReady = true) (hfree : s.ctl.busy = .none) :
    writeFlags s = s.flags := by
  simp [writeFlags_eq, hready, hfree]

/-- The machine after the setup writes `ws`. -/
def afterSetup (ws : List (Reg × Word)) (s : State) : State :=
  { s with
    seq := { s.seq with mpc := s.seq.mpc + ws.length }
    ctl := { s.ctl with regs := ws.foldl (fun f w => regSet f w.1 w.2) s.ctl.regs } }

theorem afterSetup_cons (w : Reg × Word) (ws : List (Reg × Word)) (s : State) :
    afterSetup (w :: ws) s = afterSetup ws (afterSetup [w] s) := by
  simp [afterSetup, Nat.add_assoc, Nat.add_comm 1]

/-- On a ready platform with nothing in flight a setup write changes its register and S's position alone. -/
theorem HasToRun.seqStep_setup {w : Reg × Word} {ms : List MicroOp} {s : State} (h : HasToRun (writeOp s.cfg w :: ms) s)
    (hmore : ms ≠ []) (hfree : s.ctl.busy = .none) (hplain : w.1 ∉ [Reg.ctrl, .stat, .pmcr]) :
    seqStep s = .next (afterSetup [w] s) := by
  simp only [List.mem_cons, List.not_mem_nil, or_false, not_or] at hplain
  obtain ⟨hctrl, hstat, hpmcr⟩ := hplain
  rw [h.atMicroOp.seqStep_plainWrite hstat
    (decodeTrigger_eq_none (fun heq => absurd heq hctrl) (fun heq => absurd heq hpmcr)),
    h.advance_eq hmore (plainWrite_seq _ _ s), plainWrite, writeFlags_of_ready h.ready hfree]
  rfl

/-- The setup takes one turn of S a write: by induction on the writes. -/
theorem HasToRun.setup_run {ws : List (Reg × Word)} {ms : List MicroOp} {s : State}
    (h : HasToRun (ws.map (writeOp s.cfg) ++ ms) s) (hmore : ms ≠ []) (hfree : s.ctl.busy = .none)
    (hplain : ∀ w ∈ ws, w.1 ∉ [Reg.ctrl, .stat, .pmcr]) :
    RunBy (.replicate ws.length .sequencer) s (afterSetup ws s) ∧ HasToRun ms (afterSetup ws s) := by
  induction ws generalizing s with
  | nil => exact ⟨rfl, h⟩
  | cons w ws ih =>
    obtain ⟨hw, hws⟩ := List.forall_mem_cons.mp hplain
    obtain ⟨hrun, hrest⟩ := ih (s := afterSetup [w] s) (h.tail rfl rfl rfl rfl) hfree hws
    rw [afterSetup_cons]
    exact ⟨.cons (h.seqStep_setup (by simp [hmore]) hfree hw) hrun, hrest⟩

/-! ## Start, completion, poll and status check (41_poll.md R142) -/

/-- The machine after the write that starts the transaction that CMD, SADDR, DADDR and DATA describe. -/
def afterStart (s : State) : State :=
  { s with
    seq := { s.seq with mpc := s.seq.mpc + 1 }
    ctl := { s.ctl with busy := capturedTrans s, regs := { s.ctl.regs with ctrl := s.cfg.ctrlStartTrans } } }

/-- The machine after the poll that finds the transaction completed. -/
def afterPoll (s : State) : State := consumeDraws 1 { s with seq := { s.seq with mpc := s.seq.mpc + 1 } }

/-- What a transaction needs of C to set no fault flag: nothing is in flight, and it was reset. -/
structure CtlReady (c : Ctl) : Prop where
  free : c.busy = .none
  wasReset : c.wasReset = true

theorem startTrans_bits {c : RsbConfig} (h : c.wf = true) :
    startsReset c c.ctrlStartTrans = false ∧ startsTrans c c.ctrlStartTrans = true := by
  obtain ⟨-, hstart, -⟩ := triggerMasks_ne_zero h
  exact ⟨startsReset_eq_false (by rw [BitVec.and_comm, triggers_apart h]),
    startsTrans_eq_true (by rwa [BitVec.and_self])⟩

theorem decodeTrigger_startTrans {c : RsbConfig} (h : c.wf = true) :
    decodeTrigger c .ctrl c.ctrlStartTrans = some (.ctrlStartTrans c.ctrlStartTrans) := by
  obtain ⟨hreset, hstart⟩ := startTrans_bits h
  have hdecode : decodeTrigger c .ctrl c.ctrlStartTrans =
      if startsReset c c.ctrlStartTrans then some (.ctrlSoftRst c.ctrlStartTrans)
      else if startsTrans c c.ctrlStartTrans then some (.ctrlStartTrans c.ctrlStartTrans) else none := rfl
  simp [hdecode, hreset, hstart]

section
variable {ms : List MicroOp} {s : State} (hctl : CtlReady s.ctl)
  (hcmd : s.ctl.regs.cmd ∈ [s.cfg.cmdSrta.zext, s.cfg.cmdRd8.zext, s.cfg.cmdWr8.zext])
include hctl hcmd

/-- The start write sets no flag when the platform is ready, C free and reset, and the command a supported one. -/
theorem ctrlWriteFlags_startTrans (hwf : s.cfg.wf = true) (hready : s.platformReady = true) :
    ctrlWriteFlags s.cfg.ctrlStartTrans s = s.flags := by
  obtain ⟨hno, hstart⟩ := startTrans_bits hwf
  have hsupported : unsupportedCmd s.cfg s.ctl.regs.cmd = false := by
    rw [unsupportedCmd_eq, decide_eq_false (not_not_intro hcmd)]
  simp [ctrlWriteFlags_of_startTrans hno hstart, writeFlags_of_ready hready hctl.free, needsReset, hctl.wasReset, hsupported]

theorem HasToRun.seqStep_start (h : HasToRun (.wr s.cfg.offCtrl s.cfg.ctrlStartTrans :: ms) s) (hmore : ms ≠ []) :
    seqStep s = .next (afterStart s) := by
  obtain ⟨hno, hstart⟩ := startTrans_bits h.cfgWf
  have hreg : regAt s.cfg s.cfg.offCtrl = some .ctrl := regAt_offsetOf h.cfgWf .ctrl
  have hwrite : mmioWrite s.cfg.offCtrl s.cfg.ctrlStartTrans s = .next (ctrlWrite s.cfg.ctrlStartTrans s) := by
    simp only [mmioWrite, hreg, writeReg, decodeTrigger_startTrans h.cfgWf]
    rfl
  rw [h.atMicroOp.seqStep_eq, runMicroOp, hwrite, onNext_next, h.advance_eq hmore (ctrlWrite_seq _ s),
    ctrlWrite_of_not_both (by rw [hno]; rfl), ctrlWriteBusy_of_startTrans hno hstart,
    ctrlWriteFlags_startTrans hctl hcmd h.cfgWf h.ready]
  rfl

end

/-- With nothing in flight the poll of the start bit advances at once. -/
theorem HasToRun.seqStep_poll_clear {ms : List MicroOp} {s : State}
    (h : HasToRun (.poll s.cfg.offCtrl s.cfg.ctrlStartTrans :: ms) s) (hmore : ms ≠ []) (hfree : s.ctl.busy = .none) :
    seqStep s = .next (afterPoll s) := by
  obtain ⟨-, hclear, -⟩ := triggerBits_clear_of_free h.cfgWf hfree h.ready
  have hseq : { s.seq with tries := 0 } = s.seq := by rw [← h.tries]
  have hread : afterRead .ctrl s = consumeDraws 1 s := by
    rw [afterRead, accessFlags_of_ready h.ready, if_pos (.inl rfl)]
  rw [h.atMicroOp.seqStep_poll (regAt_offsetOf h.cfgWf .ctrl), pollStep_clear _ hclear, h.advance_eq hmore hseq, hread]
  rfl

/-- A STATUS that reads success advances. -/
theorem HasToRun.seqStep_status {ms : List MicroOp} {s : State} (h : HasToRun (.status :: ms) s)
    (hsuccess : s.ctl.regs.stat = s.cfg.statSuccess) : seqStep s = .next (advance s) := by
  rw [h.atMicroOp.seqStep_status h.ready, statusStep, if_pos hsuccess]

/-- The machine with the transaction in flight that the setup writes `ws` describe. -/
def inFlight (ws : List (Reg × Word)) (s : State) : State := afterStart (afterSetup ws s)

/-- The turns of a transaction with `n` setup writes up to its status check, its completion right after its start. -/
def transactionTurns (n : Nat) : List Agent :=
  List.replicate n Agent.sequencer ++ [Agent.sequencer, .controller, .sequencer, .sequencer]

/-- What a transaction completed at once leaves, besides S and the device, `n` draws later: C is ready again, and nothing
else that a later part depends on has changed. -/
structure TransactionRan (n : Nat) (s t : State) : Prop where
  cfg : t.cfg = s.cfg
  noReset : t.seqResetIn = s.seqResetIn
  platformReady : t.platformReady = s.platformReady
  flags : t.flags = s.flags
  ctlReady : CtlReady t.ctl
  draws : ∀ k, peekDraw t k = peekDraw s (n + k)

/-- A transaction whose completion `v` comes right after its start and reports success passes its status check. -/
theorem HasToRun.transaction_run {ws : List (Reg × Word)} {ms : List MicroOp} {n : Nat} {s v : State}
    (h : HasToRun (ws.map (writeOp s.cfg) ++ (startAndWait s.cfg ++ ms)) s) (hctl : CtlReady s.ctl)
    (hplain : ∀ w ∈ ws, w.1 ∉ [Reg.ctrl, .stat, .pmcr])
    (hcmd : (afterSetup ws s).ctl.regs.cmd ∈ [s.cfg.cmdSrta.zext, s.cfg.cmdRd8.zext, s.cfg.cmdWr8.zext])
    (hdone : ctlStep (inFlight ws s) = .next v) (hframe : CompletionFrame (inFlight ws s) v)
    (hdraws : ∀ k, peekDraw v k = peekDraw s (n + k)) (hsuccess : v.ctl.regs.stat = s.cfg.statSuccess) :
    ∃ t, RunBy (transactionTurns ws.length) s (advance t) ∧ HasToRun (.status :: ms) t ∧ TransactionRan (n + 1) s t ∧
      t.seq = { s.seq with mpc := s.seq.mpc + ws.length + 2 } ∧ t.dev = v.dev ∧ t.ctl.regs = v.ctl.regs := by
  obtain ⟨hsetup, hstart⟩ := h.setup_run (by simp [startAndWait]) hctl.free hplain
  have hpoll : HasToRun (.poll v.cfg.offCtrl v.cfg.ctrlStartTrans :: .status :: ms) v := by
    rw [hframe.cfg]
    exact hstart.tail hframe.cfg hframe.seqResetIn hframe.platformReady hframe.seq
  have hstatus : HasToRun (.status :: ms) (afterPoll v) := hpoll.tail rfl rfl rfl rfl
  have hchecked : seqStep (afterPoll v) = .next (advance (afterPoll v)) :=
    hstatus.seqStep_status (hsuccess.trans (congrArg RsbConfig.statSuccess hframe.cfg.symm))
  have hrun : RunBy [.sequencer, .controller, .sequencer, .sequencer] (afterSetup ws s) (advance (afterPoll v)) :=
    .cons (hstart.seqStep_start ⟨hctl.free, hctl.wasReset⟩ hcmd (by simp)) (.cons hdone
      (.cons (hpoll.seqStep_poll_clear (by simp) hframe.busy) (.single hchecked)))
  refine ⟨_, hsetup.append hrun, hstatus, ⟨hframe.cfg, hframe.seqResetIn, hframe.platformReady, hframe.flags,
    ⟨hframe.busy, hframe.wasReset.trans hctl.wasReset⟩, fun k => ?_⟩, ?_, rfl, rfl⟩
  · rw [afterPoll, peekDraw_consumeDraws, Nat.add_assoc]
    exact hdraws (1 + k)
  · simp only [afterPoll, consumeDraws_seq, hframe.seq]
    rfl

/-! ## The completions of a RD8 and a WR8 that address the device (40_controller.md R118, R119) -/

/-- The runtime address that S puts into SADDR is the one C reads out of it (30_encoding.md R86, 10_state.md R32). -/
theorem saddrRta_saddrRw {c : RsbConfig} (h : c.fieldsApart = true) (rt : Byte) : saddrRta c (saddrRw c rt) = rt := by
  simp only [RsbConfig.fieldsApart, Bool.and_eq_true, decide_eq_true_eq] at h
  obtain ⟨⟨-, hshift⟩, -⟩ := h
  ext i hi
  have hfits : c.saddrRtaShift + i < 32 := by omega
  simpa [saddrRta, saddrRw, Word.low8, Byte.zext, hfits] using BitVec.getLsbD_eq_getElem hi

/-- Where a device is addressed the status is the first draw. -/
theorem reportedStatus_addressed (s : State) : reportedStatus s true = peekDraw s 0 := if_neg (by simp)

/-- A plain register is not the read-clear one, so its read has no effect on the device. -/
theorem devReadEffect_plain {c : RsbConfig} {a : Byte} (h : isVolatile c a = false) (m : Memory) :
    devReadEffect c m a = m := by
  simp only [isVolatile, Bool.or_eq_false_iff, beq_eq_false_iff_ne] at h
  obtain ⟨⟨-, hclear⟩, -⟩ := h
  exact if_neg hclear

theorem ctlStep_of_rd8 {s : State} {sa da d : Word} (hwf : s.cfg.wf = true)
    (hbusy : s.ctl.busy = .trans s.cfg.cmdRd8.zext sa da d) : ctlStep s = .next (rd8Done sa da s) := by
  have hdecode := decodeCommand_zext hwf (b := s.cfg.cmdRd8) (i := .cmdRd8) (by simp [commandTable])
  simp only [ctlStep, hbusy, hdecode, exec_cmdRd8_of_trans hbusy]

theorem ctlStep_of_wr8 {s : State} {sa da d : Word} (hwf : s.cfg.wf = true)
    (hbusy : s.ctl.busy = .trans s.cfg.cmdWr8.zext sa da d) : ctlStep s = .next (wr8Done sa da d s) := by
  have hdecode := decodeCommand_zext hwf (b := s.cfg.cmdWr8) (i := .cmdWr8) (by simp [commandTable])
  simp only [ctlStep, hbusy, hdecode, exec_cmdWr8_of_trans hbusy]

/-- A transaction of the plain register `reg` at the device's runtime address `rt` succeeds if its status is the `k`-th
coming draw. -/
structure SucceedsAt (k : Nat) (rt reg : Byte) (s : State) : Prop where
  fieldsApart : s.cfg.fieldsApart = true
  mode : s.dev.mode = .rsb
  rt : s.dev.rt = some rt
  plain : isVolatile s.cfg reg = false
  success : peekDraw s k = s.cfg.statSuccess

/-- `n` draws later the status is `n` draws nearer. -/
theorem SucceedsAt.later {n k : Nat} {rt reg : Byte} {s t : State} (h : SucceedsAt (n + k) rt reg s) (hcfg : t.cfg = s.cfg)
    (hdev : t.dev = s.dev) (hdraws : ∀ j, peekDraw t j = peekDraw s (n + j)) : SucceedsAt k rt reg t where
  fieldsApart := hcfg ▸ h.fieldsApart
  mode := hdev ▸ h.mode
  rt := hdev ▸ h.rt
  plain := hcfg ▸ h.plain
  success := by rw [hdraws, hcfg, h.success]

section
variable {rt reg : Byte} {s : State} (h : SucceedsAt 0 rt reg s)
include h

theorem SucceedsAt.reportedStatus_eq :
    reportedStatus s (matchesRt s (saddrRw s.cfg rt)) = s.cfg.statSuccess := by
  have hmatch : matchesRt s (saddrRw s.cfg rt) = true := by
    rw [matchesRt_iff, saddrRta_saddrRw h.fieldsApart]
    exact ⟨h.mode, h.rt⟩
  rw [hmatch, reportedStatus_addressed, h.success]

theorem SucceedsAt.rd8Done_dev : (rd8Done (saddrRw s.cfg rt) reg.zext s).dev = s.dev := by
  rw [rd8Done_dev_of_effect (hasEffect_of_reportedStatus h.reportedStatus_eq), low8_zext, devReadEffect_plain h.plain]

theorem SucceedsAt.rd8Done_data :
    (rd8Done (saddrRw s.cfg rt) reg.zext s).ctl.regs.data.low8 = memRead s.dev.regs reg.toNat := by
  have hdelivers := rd8Done_delivers_plain (da := reg.zext) (hasEffect_of_reportedStatus h.reportedStatus_eq)
  rw [low8_zext] at hdelivers
  exact hdelivers h.plain

theorem SucceedsAt.wr8Done_dev (val : Byte) :
    (wr8Done (saddrRw s.cfg rt) reg.zext val.zext s).dev = { s.dev with regs := memWrite s.dev.regs reg.toNat val } := by
  rw [wr8Done_dev_of_effect (hasEffect_of_reportedStatus h.reportedStatus_eq), low8_zext, low8_zext, devWrite, h.plain]
  rfl

end

/-! ## The two parts, completed at once with success (R180, R181) -/

/-- The setup of READ8 (30_encoding.md R86). -/
def readSetup (c : RsbConfig) (rt reg : Byte) : List (Reg × Word) :=
  [(.cmd, c.cmdRd8.zext), (.saddr, saddrRw c rt), (.daddr, reg.zext)]

/-- The setup of WRITE8 (30_encoding.md R86). -/
def writeSetup (c : RsbConfig) (rt reg val : Byte) : List (Reg × Word) :=
  [(.cmd, c.cmdWr8.zext), (.saddr, saddrRw c rt), (.daddr, reg.zext), (.data, val.zext)]

/-- A READ8 part ends with the device's byte in the data latch. -/
theorem HasToRun.read8_run {rt reg : Byte} {s : State} (h : HasToRun (prog s.cfg (.read8 rt reg)) s)
    (hctl : CtlReady s.ctl) (hsuccess : SucceedsAt 0 rt reg s) :
    ∃ t, RunBy (transactionTurns 3 ++ [.sequencer]) s (partDone t) ∧ TransactionRan 5 s t ∧ t.dev = s.dev ∧
      t.seq = { s.seq with mpc := s.seq.mpc + 7, data := memRead s.dev.regs reg.toNat } := by
  have hstarted : SucceedsAt 0 rt reg (inFlight (readSetup s.cfg rt reg) s) := { hsuccess with }
  obtain ⟨t, hrun, hstatus, hran, hseq, hdev, hregs⟩ := HasToRun.transaction_run (n := 4) h hctl (by simp [readSetup])
    (by simp [afterSetup, readSetup, regSet])
    (ctlStep_of_rd8 (s := inFlight (readSetup s.cfg rt reg) s) h.cfgWf rfl)
    (rd8Done_frame _ _ _) (fun k => peekDraw_consumeDraws 4 k _) hstarted.reportedStatus_eq
  have hdata : t.ctl.regs.data.low8 = memRead s.dev.regs reg.toNat := by
    rw [hregs]; exact hstarted.rd8Done_data
  refine ⟨_, hrun.append hstatus.rddata_run, { hran with }, hdev.trans hstarted.rd8Done_dev, ?_⟩
  simp only [hdata, hseq]
  rfl

/-- A WRITE8 part leaves its byte in the device. -/
theorem HasToRun.write8_run {rt reg val : Byte} {s : State} (h : HasToRun (prog s.cfg (.write8 rt reg val)) s)
    (hctl : CtlReady s.ctl) (hsuccess : SucceedsAt 0 rt reg s) :
    ∃ t, RunBy (transactionTurns 4) s (partDone t) ∧ TransactionRan 4 s t ∧
      t.dev = { s.dev with regs := memWrite s.dev.regs reg.toNat val } ∧ t.seq = { s.seq with mpc := s.seq.mpc + 7 } := by
  have hstarted : SucceedsAt 0 rt reg (inFlight (writeSetup s.cfg rt reg val) s) := { hsuccess with }
  have hprog : prog s.cfg (.write8 rt reg val) =
      (writeSetup s.cfg rt reg val).map (writeOp s.cfg) ++ (startAndWait s.cfg ++ []) := rfl
  obtain ⟨t, hrun, hstatus, hran, hseq, hdev, -⟩ := HasToRun.transaction_run (n := 3) (hprog ▸ h) hctl
    (by simp [writeSetup]) (by simp [afterSetup, writeSetup, regSet])
    (ctlStep_of_wr8 (s := inFlight (writeSetup s.cfg rt reg val) s) h.cfgWf rfl)
    (wr8Done_frame _ _ _ _) (fun k => peekDraw_consumeDraws 3 k _) hstarted.reportedStatus_eq
  rw [hstatus.advance_last rfl rfl] at hrun
  refine ⟨_, hrun, { hran with }, hdev.trans (hstarted.wr8Done_dev val), ?_⟩
  simp only [hseq]
  rfl

/-! ## Whole operations (R180, R181, R182) -/

theorem peekDraw_accept (op : ReqOp) (q : Seq) (p : Part) (s : State) (k : Nat) :
    peekDraw (accept op q p s) k = peekDraw s (9 + k) := by
  rw [accept_eq_startPart]
  exact (peekDraw_congr (startPart_script _ _) (startPart_drawIndex _ _) k).trans (peekDraw_consumeDraws 9 k _)

theorem SucceedsAt.accepted {k : Nat} {rt reg : Byte} {s : State} (h : SucceedsAt (9 + k) rt reg s) (op : ReqOp) (q : Seq)
    (p : Part) : SucceedsAt k rt reg (accept op q p s) :=
  h.later (accept_cfg op q p s) (accept_dev op q p s) (peekDraw_accept op q p s)

/-- A part that starts has its whole micro-program to run. -/
theorem startPart_hasToRun {p : Part} {s : State} (hok : partOk p = true) (hwf : s.cfg.wf = true)
    (hreset : s.seqResetIn = false) (hready : s.platformReady = true) (hrun : s.seq.phase = .run) :
    HasToRun (prog (startPart p s).cfg p) (startPart p s) := by
  rw [startPart_ok hok]
  exact ⟨hwf, hreset, hready, hrun, rfl, rfl⟩

/-- Acceptance starts the operation's first part. -/
theorem AtRequest.accept_run {r : Request} {i : Instr} {op : ReqOp} {q : Seq} {p : Part} {s : State} (hat : AtRequest r s)
    (hdecode : decodeRequest r = some i) (haccept : exec i s = acceptWhenIdle op q p s) (hok : partOk p = true)
    (hready : s.platformReady = true) :
    RunBy [.sequencer] s (accept op q p s) ∧ HasToRun (prog (accept op q p s).cfg p) (accept op q p s) :=
  ⟨.single ((hat.seqStep_of_decode hdecode).trans (haccept.trans (acceptWhenIdle_idle hat.phase op q p))),
    startPart_hasToRun hok hat.cfgWf hat.noReset hready rfl⟩

theorem partDone_read8 {s : State} (hop : s.seq.op = .read8) : partDone s = respond .ok 0 s.seq.data s := by
  simp [partDone, hop]

/-- Settles O34: acceptance, then the READ8 part, whose end answers with the byte latched. -/
theorem readOperationReturnsDeviceByte : Obligations.ReadOperationReturnsDeviceByte := by
  intro s r rt reg hat hdecode hapart hready hfree hreset hmode hrt hplain hplan hdraw
  obtain ⟨haccept, htoRun⟩ := hat.accept_run hdecode (op := .read8) rfl rfl hready
  have hsucceeds : SucceedsAt (9 + 0) rt reg s := ⟨hapart, hmode, hrt, hplain, hdraw⟩
  obtain ⟨t, hread, hran, hdev, hseq⟩ := htoRun.read8_run (by rw [accept_ctl]; exact ⟨hfree, hreset⟩)
    (hsucceeds.accepted _ _ _)
  have hanswer : partDone t = respond .ok 0 (memRead s.dev.regs reg.toNat) t := by
    rw [partDone_read8 (by rw [hseq, accept_seq_of_partOk rfl]; rfl), hseq, accept_dev]
  rw [hanswer] at hread
  obtain ⟨g, hreach⟩ := (haccept.append hread).reaches_of_planned hat.cfgWf hplan
  exact ⟨_, hreach, (respond_responded _ _ _ _).congr rfl, hdev.trans (accept_dev _ _ _ s),
    hran.flags.trans (accept_flags _ _ _ s), hran.ctlReady.free⟩

/-- Settles O35: acceptance, then the WRITE8 part. -/
theorem writeOperationStoresByte : Obligations.WriteOperationStoresByte := by
  intro s r rt reg val hat hdecode hapart hready hfree hreset hmode hrt hplain hmem hplan hdraw
  obtain ⟨haccept, htoRun⟩ := hat.accept_run hdecode (op := .write8) rfl rfl hready
  have hsucceeds : SucceedsAt (9 + 0) rt reg s := ⟨hapart, hmode, hrt, hplain, hdraw⟩
  obtain ⟨t, hwrite, hran, hdev, hseq⟩ := htoRun.write8_run (by rw [accept_ctl]; exact ⟨hfree, hreset⟩)
    (hsucceeds.accepted _ _ _)
  have hop : t.seq.op = .write8 := by rw [hseq, accept_seq_of_partOk rfl]; rfl
  rw [partDone_single (by rw [hop]; rfl) (by simp [hop])] at hwrite
  obtain ⟨g, hreach⟩ := (haccept.append hwrite).reaches_of_planned hat.cfgWf hplan
  refine ⟨_, hreach, (respond_responded _ _ _ _).congr rfl, hran.flags.trans (accept_flags _ _ _ s),
    hran.ctlReady.free, ?_⟩
  simp [hdev, memRead_memWrite hmem]

theorem partDone_rmw_write {s : State} (hop : s.seq.op = .rmw) (hstage : s.seq.stage ≠ 0) :
    partDone s = respond .ok 0 0 s := by
  simp [partDone, hop, hstage]

theorem rmwWritePart_eq (s : State) :
    rmwWritePart s = { s with seq := { s.seq with
      old := s.seq.data, stage := 1, mpc := 0, tries := 0
      mprog := prog s.cfg (.write8 s.seq.rt s.seq.reg (rmwNew s.seq.data s.seq.clr s.seq.set)) } } :=
  startPart_ok rfl _

/-- From the end of an RMW's read part the write part leads to the answer, with the computed byte in the device. -/
theorem rmwWritePart_run {s : State} (hwf : s.cfg.wf = true) (hreset : s.seqResetIn = false)
    (hready : s.platformReady = true) (hrun : s.seq.phase = .run) (hop : s.seq.op = .rmw) (hctl : CtlReady s.ctl)
    (hsuccess : SucceedsAt 0 s.seq.rt s.seq.reg s) :
    ∃ t, RunBy (transactionTurns 4) (rmwWritePart s) (respond .ok 0 0 t) ∧ TransactionRan 4 s t ∧
      t.dev =
        { s.dev with regs := memWrite s.dev.regs s.seq.reg.toNat (rmwNew s.seq.data s.seq.clr s.seq.set) } := by
  have hstart : HasToRun
      (prog (rmwWritePart s).cfg (.write8 s.seq.rt s.seq.reg (rmwNew s.seq.data s.seq.clr s.seq.set)))
      (rmwWritePart s) := startPart_hasToRun rfl hwf hreset hready hrun
  rw [rmwWritePart_eq] at hstart ⊢
  obtain ⟨t, hwrite, hran, hdev, hseq⟩ := hstart.write8_run hctl { hsuccess with }
  rw [partDone_rmw_write (by rw [hseq]; exact hop) (by simp [hseq])] at hwrite
  exact ⟨t, hwrite, { hran with }, hdev⟩

/-- Settles O36: acceptance, the READ8 part, and the WRITE8 part of the byte computed from the one read. -/
theorem rmwOperationWritesBack : Obligations.RmwOperationWritesBack := by
  intro s r rt reg clr set hat hdecode hapart hready hfree hreset hmode hrt hplain hmem hplan hreadDraw hwriteDraw
  obtain ⟨haccept, htoRun⟩ := hat.accept_run hdecode (op := .rmw) rfl rfl hready
  have hreads : SucceedsAt (9 + 0) rt reg s := ⟨hapart, hmode, hrt, hplain, hreadDraw⟩
  have hwrites : SucceedsAt (9 + (5 + 0)) rt reg s := { hreads with success := hwriteDraw }
  obtain ⟨t, hread, hran, hdev, hseq⟩ := htoRun.read8_run (by rw [accept_ctl]; exact ⟨hfree, hreset⟩)
    (hreads.accepted _ _ _)
  have hwritesNext := (hwrites.accepted _ _ _).later hran.cfg hdev hran.draws
  rw [accept_seq_of_partOk rfl, accept_dev] at hseq
  rw [accept_dev] at hdev
  rw [partDone_rmw_read (by rw [hseq]; rfl) (by rw [hseq]; rfl)] at hread
  obtain ⟨u, hwrite, hranNext, hdevNext⟩ := rmwWritePart_run (s := t) (hran.cfg ▸ htoRun.cfgWf)
    (hran.noReset.trans htoRun.noReset) (hran.platformReady.trans htoRun.ready) (by rw [hseq]; rfl) (by rw [hseq]; rfl)
    hran.ctlReady (by rw [hseq]; exact hwritesNext)
  obtain ⟨g, hreach⟩ := ((haccept.append hread).append hwrite).reaches_of_planned hat.cfgWf hplan
  refine ⟨_, hreach, (respond_responded _ _ _ _).congr rfl,
    (hranNext.flags.trans hran.flags).trans (accept_flags _ _ _ s), hranNext.ctlReady.free, ?_⟩
  simp [hdevNext, hdev, hseq, acceptedSeq, memRead_memWrite hmem, rmwNew]

end Sys2Proof.Machine
end

section
/-! # 44_init.md R200, R201: an INIT whose operations complete at once

Such an INIT is a chain of writes, completions, polls and one status check, each of which changes C, P, the draws and S's
place in its parts alone. `initAt` is the machine at a place of that chain. The lemmas say how a turn of S or of C leads
from one place to the next, and the five stages are these turns put together. -/

namespace Sys2Proof.Machine

/-! ## The fields of PMCR and SADDR (30_encoding.md R84, R85) -/

/-- The mask of the `k` lowest bits. -/
theorem lowMask_eq {k : Nat} (hk : k < 32) : (1#32 <<< k) - 1#32 = BitVec.ofNat 32 (2 ^ k - 1) := by
  have hpow : 2 ^ k < 4294967296 := Nat.pow_lt_pow_right (a := 2) (by omega) hk
  have hpos : 0 < 2 ^ k := Nat.two_pow_pos k
  have hbit : (1#32 <<< k).toNat = 2 ^ k := by
    simpa [Nat.shiftLeft_eq] using hpow
  apply BitVec.eq_of_toNat_eq
  rw [BitVec.toNat_sub_of_le (BitVec.le_def.mpr (by rw [hbit]; exact hpos)), hbit, BitVec.toNat_ofNat]
  exact (Nat.mod_eq_of_lt (by omega)).symm

theorem getElem_lowMask {k i : Nat} (hk : k < 32) (hi : i < 32) :
    ((1#32 <<< k) - 1#32)[i] = decide (i < k) := by
  rw [lowMask_eq hk, ← BitVec.getLsbD_eq_getElem, BitVec.getLsbD_ofNat, Nat.testBit_two_pow_sub_one]
  simp [hi]

theorem fieldsApart_iff (c : RsbConfig) :
    c.fieldsApart = true ↔
      12 ≤ c.saddrRtaShift ∧ c.saddrRtaShift ≤ 24 ∧ c.pmcrStart &&& ((1#32 <<< 24) - 1#32) = 0#32 := by
  have hmask : (1#32 <<< 24) - 1#32 = 0x00FFFFFF#32 := by decide
  rw [hmask]
  simp [RsbConfig.fieldsApart, and_assoc]

/-- The start bit stands above the payload. -/
theorem getElem_pmcrStart_low {c : RsbConfig} (h : c.fieldsApart = true) {i : Nat} (hi : i < 24) :
    c.pmcrStart[i]'(by omega) = false := by
  obtain ⟨-, -, hstart⟩ := (fieldsApart_iff c).mp h
  have hbit := BitVec.getElem_and (x := c.pmcrStart) (y := (1#32 <<< 24) - 1#32) (i := i) (h := by omega)
  rw [hstart, BitVec.getElem_zero, getElem_lowMask (by omega) (by omega), decide_eq_true hi, Bool.and_true] at hbit
  exact hbit.symm

theorem low24_pmcrValue {c : RsbConfig} (h : c.fieldsApart = true) (p : Payload) : (pmcrValue c p).low24 = p := by
  ext i hi
  have hlow := getElem_pmcrStart_low h hi
  simp [pmcrValue, Word.low24, BitVec.getLsbD_eq_getElem, hlow, show i < 32 by omega]

theorem pmcrValue_and_start (c : RsbConfig) (p : Payload) : pmcrValue c p &&& c.pmcrStart = c.pmcrStart := by
  rw [pmcrValue, BitVec.or_comm]
  exact or_and_self_right _ _

theorem pmcrValue_and_not_start {c : RsbConfig} (h : c.fieldsApart = true) (p : Payload) :
    pmcrValue c p &&& ~~~c.pmcrStart = p.zeroExtend 32 := by
  ext i hi
  by_cases hlow : i < 24
  · simp [pmcrValue, getElem_pmcrStart_low h hlow]
  · simp [pmcrValue, BitVec.getLsbD_of_ge p i (by omega)]

/-- C reads the runtime address that S put into SADDR: the hardware address lies below it. -/
theorem saddrRta_saddrSrta {c : RsbConfig} (h : c.fieldsApart = true) (hw : HwAddr) (rt : Byte) :
    saddrRta c (saddrSrta c hw rt) = rt := by
  obtain ⟨hlow, -, -⟩ := (fieldsApart_iff c).mp h
  have hhigh : (hw.zeroExtend 32) >>> c.saddrRtaShift = 0#32 := by
    ext i hi
    simp [BitVec.getLsbD_of_ge hw (c.saddrRtaShift + i) (by omega)]
  rw [saddrRta, saddrSrta, BitVec.ushiftRight_or_distrib, hhigh, BitVec.or_zero]
  exact saddrRta_saddrRw h rt

/-- C reads the hardware address that S put into SADDR: the runtime address lies above it (log 15). -/
theorem saddrHw_saddrSrta {c : RsbConfig} (h : c.fieldsApart = true) (hw : HwAddr) (rt : Byte) :
    saddrHw c (saddrSrta c hw rt) = hw.zeroExtend 32 := by
  obtain ⟨hlow, hhigh, -⟩ := (fieldsApart_iff c).mp h
  ext i hi
  have hmask := getElem_lowMask (show c.saddrRtaShift < 32 by omega) hi
  by_cases hbelow : i < c.saddrRtaShift
  · simp [saddrHw, saddrSrta, saddrRw, hmask, hbelow]
  · simp [saddrHw, saddrSrta, saddrRw, hmask, hbelow, BitVec.getLsbD_of_ge hw i (by omega)]

/-! ## The writes that start an operation -/

/-- A write whose word is a trigger means the instruction it decodes to (20_memory.md R61). -/
theorem mmioWrite_of_trigger {s : State} {r : Reg} {v : Word} {i : Instr} (hwf : s.cfg.wf = true)
    (htrigger : decodeTrigger s.cfg r v = some i) : mmioWrite (offsetOf s.cfg r) v s = exec i s := by
  have hreg := regAt_offsetOf hwf r
  cases r with
  | stat => simp [decodeTrigger] at htrigger
  | _ => simp only [mmioWrite, hreg, writeReg, htrigger]

/-- C after the write that starts a soft reset (42_bus_controller_ops.md R160). -/
def resetStarted (c : RsbConfig) (k : Ctl) : Ctl :=
  { k with busy := .resetting, regs := { k.regs with ctrl := c.ctrlSoftRst } }

/-- C after the write that starts a mode switch (42_bus_controller_ops.md R162). -/
def switchStarted (c : RsbConfig) (p : Payload) (k : Ctl) : Ctl :=
  { k with busy := .pmode (pmcrValue c p).low24, regs := { k.regs with pmcr := pmcrValue c p } }

theorem mmioWrite_softRst {s : State} (hwf : s.cfg.wf = true) :
    mmioWrite s.cfg.offCtrl s.cfg.ctrlSoftRst s =
      .next { s with flags := writeFlags s, ctl := resetStarted s.cfg s.ctl } := by
  obtain ⟨hbit, -⟩ := triggerMasks_ne_zero hwf
  have hdecode : decodeTrigger s.cfg .ctrl s.cfg.ctrlSoftRst = some (.ctrlSoftRst s.cfg.ctrlSoftRst) := by
    simpa [decodeTrigger, decodeCtrl] using hbit
  rw [writeFlags_eq]
  exact (mmioWrite_of_trigger (r := .ctrl) hwf hdecode).trans
    (softResetTriggerStarts s _ (by rwa [BitVec.and_self]) (triggers_apart hwf))

theorem mmioWrite_pmcrValue {s : State} (hwf : s.cfg.wf = true) (p : Payload) :
    mmioWrite s.cfg.offPmcr (pmcrValue s.cfg p) s = .next { s with
      flags := { writeFlags s with notReset := s.flags.notReset || !s.ctl.wasReset }
      ctl := switchStarted s.cfg p s.ctl } := by
  obtain ⟨-, -, hbit⟩ := triggerMasks_ne_zero hwf
  have hstart : pmcrValue s.cfg p &&& s.cfg.pmcrStart ≠ 0 := by rwa [pmcrValue_and_start]
  have hdecode : decodeTrigger s.cfg .pmcr (pmcrValue s.cfg p) = some (.pmcrStart (pmcrValue s.cfg p)) := by
    simpa [decodeTrigger, decodePmcr] using hstart
  rw [writeFlags_eq]
  exact (mmioWrite_of_trigger (r := .pmcr) hwf hdecode).trans (modeSwitchTriggerStarts s _ hstart)

/-! ## A place in an INIT -/

/-- The machine `u` at micro-op `mpc` of INIT's stage `stage`, no poll counted, `n` draws later and with C and P these. -/
def initAt (u : State) (stage mpc n : Nat) (k : Ctl) (d : Dev) : State :=
  consumeDraws n { u with
    ctl := k
    dev := d
    seq := { u.seq with stage := stage, mprog := prog u.cfg (initPart u.cfg stage), mpc := mpc, tries := 0 } }

theorem consumeDraws_add (m n : Nat) (s : State) : consumeDraws m (consumeDraws n s) = consumeDraws (n + m) s := by
  simp [consumeDraws, Nat.add_assoc]

theorem consumeDraws_initAt (u : State) (stage mpc m n : Nat) (k : Ctl) (d : Dev) :
    consumeDraws m (initAt u stage mpc n k d) = initAt u stage mpc (n + m) k d :=
  consumeDraws_add m n _

theorem peekDraw_initAt (u : State) (stage mpc n : Nat) (k : Ctl) (d : Dev) (j : Nat) :
    peekDraw (initAt u stage mpc n k d) j = peekDraw u (n + j) := by
  rw [initAt, peekDraw_consumeDraws]
  exact peekDraw_congr rfl rfl _

/-- C after a soft reset, nothing in flight, with these registers. -/
def freeCtl (f : RegFile) : Ctl := { regs := f, busy := .none, wasReset := true }

/-- What an INIT needs of the machine outside C and P: it runs, on a ready platform, with its two speeds valid. -/
structure RunsInit (u : State) : Prop where
  cfgWf : u.cfg.wf = true
  noReset : u.seqResetIn = false
  ready : u.platformReady = true
  phase : u.seq.phase = .run
  op : u.seq.op = .init
  partsOk : ∀ stage, partOk (initPart u.cfg stage) = true

theorem initPart_partOk {c : RsbConfig} (hhs : speedOk c.hsSrcFreq c.hsBusFreq = true)
    (hop : speedOk c.hsSrcFreq c.opBusFreq = true) (stage : Nat) : partOk (initPart c stage) = true := by
  unfold initPart
  split
  · rfl
  · exact hhs
  · rfl
  · exact hop
  · rfl

/-- On a ready platform a read makes its draw, if it is of CTRL, and changes nothing else. -/
theorem afterRead_eq_of_ready {s : State} (h : s.platformReady = true) (r : Reg) :
    afterRead r s = consumeDraws (if r = .ctrl then 1 else 0) s := by
  rw [afterRead, accessFlags_of_ready h]
  simp only [h, Bool.true_eq_false, or_false]
  rw [← h]

section
variable {u : State} (h : RunsInit u) {stage mpc n : Nat} {k : Ctl} {d : Dev}
include h

theorem RunsInit.hasToRun {ms : List MicroOp} (hms : (prog u.cfg (initPart u.cfg stage)).drop mpc = ms) :
    HasToRun ms (initAt u stage mpc n k d) :=
  ⟨h.cfgWf, h.noReset, h.ready, h.phase, rfl, hms⟩

omit h in
theorem advance_initAt (hmore : mpc + 1 < (prog u.cfg (initPart u.cfg stage)).length) :
    advance (initAt u stage mpc n k d) = initAt u stage (mpc + 1) n k d :=
  advance_before_last (s := initAt u stage mpc n k d) hmore

/-- The end of a stage before the last is the start of the next (44_init.md R200). -/
theorem RunsInit.advance_initAt_last (hlast : mpc + 1 = (prog u.cfg (initPart u.cfg stage)).length)
    (hstage : stage < initLastStage) : advance (initAt u stage mpc n k d) = initAt u (stage + 1) 0 n k d := by
  rw [advance_at_last (s := initAt u stage mpc n k d) hlast]
  exact (partDone_init_stage (s := initAt u stage (mpc + 1) n k d) h.op hstage).trans (startPart_ok (h.partsOk _) _)

/-- A write that sets no flag and makes no draw changes C alone. -/
theorem RunsInit.seqStep_write {off v : Word} {ms : List MicroOp} {k' : Ctl} {f : FaultFlags}
    (hms : (prog u.cfg (initPart u.cfg stage)).drop mpc = .wr off v :: ms)
    (hwrite : mmioWrite off v (initAt u stage mpc n k d) =
      .next { initAt u stage mpc n k d with flags := f, ctl := k' }) (hflags : f = u.flags) :
    seqStep (initAt u stage mpc n k d) = .next (advance (initAt u stage mpc n k' d)) := by
  rw [(h.hasToRun hms).atMicroOp.seqStep_eq, runMicroOp, hwrite, hflags]
  rfl

/-- A poll whose bit reads 0 ends at once; a read of CTRL makes a draw. -/
theorem RunsInit.seqStep_poll {r : Reg} {mask : Word} {ms : List MicroOp}
    (hms : (prog u.cfg (initPart u.cfg stage)).drop mpc = .poll (offsetOf u.cfg r) mask :: ms)
    (hclear : readValue r (initAt u stage mpc n k d) &&& mask = 0) :
    seqStep (initAt u stage mpc n k d) =
      .next (advance (initAt u stage mpc (n + if r = .ctrl then 1 else 0) k d)) := by
  rw [(h.hasToRun hms).atMicroOp.seqStep_poll (regAt_offsetOf h.cfgWf r), pollStep_clear _ hclear,
    afterRead_eq_of_ready (s := initAt u stage mpc n k d) h.ready, consumeDraws_initAt]
  rfl

theorem RunsInit.triggerBits_clear (hfree : k.busy = .none) :
    readValue .ctrl (initAt u stage mpc n k d) &&& u.cfg.ctrlSoftRst = 0 ∧
      readValue .pmcr (initAt u stage mpc n k d) &&& u.cfg.pmcrStart = 0 := by
  obtain ⟨hreset, -, hswitch⟩ := triggerBits_clear_of_free (s := initAt u stage mpc n k d) h.cfgWf hfree h.ready
  exact ⟨hreset, hswitch⟩

/-! ## The stages before the last -/

/-- The registers that the eleven draws from the `n`-th on make in a soft reset (40_controller.md R111). -/
def drawnRegs (u : State) (n : Nat) : RegFile := (softResetDone (consumeDraws n u)).ctl.regs

omit h in
theorem ctlStep_initAt_of_resetting (hbusy : k.busy = .resetting) :
    ctlStep (initAt u stage mpc n k d) = .next (initAt u stage mpc (n + 11) (freeCtl (drawnRegs u n)) d) := by
  have hstep : ctlStep (initAt u stage mpc n k d) = .next (softResetDone (initAt u stage mpc n k d)) := by
    simp only [ctlStep, show (initAt u stage mpc n k d).ctl.busy = .resetting from hbusy]
  rw [hstep, ← consumeDraws_initAt]
  rfl

omit h in
/-- The mode switch of a device in I2C mode, received (40_controller.md R116). -/
theorem ctlStep_initAt_of_pmode {p : Payload} (hbusy : k.busy = .pmode p) (hmode : d.mode = .i2c)
    (hreceived : (peekDraw u n).getLsbD 0 = true) (hswitch : isModeSwitch p = true) :
    ctlStep (initAt u stage mpc n k d) =
      .next (initAt u stage mpc (n + 2) { k with busy := .none } { d with mode := .rsb, rt := none }) := by
  have hdev : (modeSwitchDone p (initAt u stage mpc n k d)).dev = { d with mode := .rsb, rt := none } := by
    rw [modeSwitchDone_dev_of_received (s := initAt u stage mpc n k d) hmode
      (by rw [peekBool, peekDraw_initAt]; exact hreceived)]
    exact if_pos hswitch
  have hstep : ctlStep (initAt u stage mpc n k d) = .next (modeSwitchDone p (initAt u stage mpc n k d)) := by
    simp only [ctlStep, show (initAt u stage mpc n k d).ctl.busy = .pmode p from hbusy]
  rw [hstep, ← consumeDraws_initAt, ← hdev]
  rfl

/-- RESET, completed at once, leaves C free and reset, its registers drawn. -/
theorem RunsInit.reset_run (hfree : k.busy = .none) :
    RunBy [.sequencer, .controller, .sequencer] (initAt u 0 0 n k d)
      (initAt u 1 0 (n + 12) (freeCtl (drawnRegs u n)) d) := by
  have hwrite := h.seqStep_write (n := n) (k := k) (d := d) (stage := 0) (mpc := 0) rfl
    (mmioWrite_softRst (s := initAt u 0 0 n k d) h.cfgWf)
    (writeFlags_of_ready (s := initAt u 0 0 n k d) h.ready hfree)
  rw [advance_initAt (by simp [initPart, prog])] at hwrite
  have hdone := ctlStep_initAt_of_resetting (u := u) (stage := 0) (mpc := 1) (n := n) (d := d)
    (k := resetStarted u.cfg k) rfl
  obtain ⟨hclear, -⟩ := h.triggerBits_clear (stage := 0) (mpc := 1) (n := n + 11) (d := d)
    (k := freeCtl (drawnRegs u n)) rfl
  have hpoll := h.seqStep_poll rfl hclear
  rw [h.advance_initAt_last rfl (by decide)] at hpoll
  exact .cons hwrite (.cons hdone (.single hpoll))

/-- SET_SPEED, at either of its stages, stores its CCR value. -/
theorem RunsInit.setSpeed_run {src bus : Word} {f : RegFile} (hpart : initPart u.cfg stage = .setSpeed src bus)
    (hstage : stage < initLastStage) :
    RunBy [.sequencer] (initAt u stage 0 n (freeCtl f) d)
      (initAt u (stage + 1) 0 n (freeCtl { f with ccr := ccrValue u.cfg src bus }) d) := by
  have hwrite := h.seqStep_write (stage := stage) (mpc := 0) (n := n) (k := freeCtl f) (d := d) (by rw [hpart]; rfl)
    (mmioWrite_of_no_trigger (r := .ccr) (regAt_offsetOf h.cfgWf .ccr) (by simp) rfl)
    (writeFlags_of_ready (s := initAt u stage 0 n (freeCtl f) d) h.ready rfl)
  rw [h.advance_initAt_last (by rw [hpart]; rfl) hstage] at hwrite
  exact .single hwrite

/-- MODE_SWITCH, received and completed at once, leaves the device in RSB mode. -/
theorem RunsInit.modeSwitch_run {f : RegFile} (hapart : u.cfg.fieldsApart = true) (hmode : d.mode = .i2c)
    (hreceived : (peekDraw u n).getLsbD 0 = true) (hswitch : isModeSwitch u.cfg.modeSwitchPayload = true) :
    RunBy [.sequencer, .controller, .sequencer] (initAt u 2 0 n (freeCtl f) d)
      (initAt u 3 0 (n + 2) (freeCtl { f with pmcr := pmcrValue u.cfg u.cfg.modeSwitchPayload })
        { d with mode := .rsb, rt := none }) := by
  have hflags : { writeFlags (initAt u 2 0 n (freeCtl f) d) with notReset := u.flags.notReset || false } = u.flags := by
    rw [writeFlags_of_ready (s := initAt u 2 0 n (freeCtl f) d) h.ready rfl, Bool.or_false]
    rfl
  have hwrite := h.seqStep_write (stage := 2) (mpc := 0) (n := n) (k := freeCtl f) (d := d) rfl
    (mmioWrite_pmcrValue (s := initAt u 2 0 n (freeCtl f) d) h.cfgWf _) hflags
  rw [advance_initAt (by simp [initPart, prog])] at hwrite
  have hdone := ctlStep_initAt_of_pmode (stage := 2) (mpc := 1)
    (k := switchStarted u.cfg u.cfg.modeSwitchPayload (freeCtl f)) rfl hmode hreceived (by rwa [low24_pmcrValue hapart])
  obtain ⟨-, hclear⟩ := h.triggerBits_clear (stage := 2) (mpc := 1) (n := n + 2)
    (d := { d with mode := .rsb, rt := none }) (k := freeCtl { f with pmcr := pmcrValue u.cfg u.cfg.modeSwitchPayload }) rfl
  have hpoll := h.seqStep_poll rfl hclear
  rw [h.advance_initAt_last rfl (by decide)] at hpoll
  exact .cons hwrite (.cons hdone (.single hpoll))

end

/-! ## The last stage -/

theorem partDone_init_last {s : State} (hop : s.seq.op = .init) (hlast : ¬s.seq.stage < initLastStage) :
    partDone s = respond .ok 0 0 s := by
  simp [partDone, hop, hlast]

theorem ctlStep_of_srta {s : State} {sa da d : Word} (hwf : s.cfg.wf = true)
    (hbusy : s.ctl.busy = .trans s.cfg.cmdSrta.zext sa da d) : ctlStep s = .next (srtaDone sa s) := by
  have hdecode := decodeCommand_zext hwf (b := s.cfg.cmdSrta) (i := .cmdSrta) (by simp [commandTable])
  simp only [ctlStep, hbusy, hdecode, exec_cmdSrta_of_trans hbusy]

/-- The setup of ASSIGN_RTA (30_encoding.md R85). -/
def assignSetup (c : RsbConfig) (hw : HwAddr) (rt : Byte) : List (Reg × Word) :=
  [(.saddr, saddrSrta c hw rt), (.cmd, c.cmdSrta.zext)]

/-- An SRTA for the hardware address of a device in RSB mode addresses it (40_controller.md R117). -/
theorem matchesHw_saddrSrta {s : State} (hapart : s.cfg.fieldsApart = true) (hmode : s.dev.mode = .rsb) (rt : Byte) :
    matchesHw s (saddrSrta s.cfg s.dev.hw rt) = true := by
  simp [matchesHw, hmode, saddrHw_saddrSrta hapart]

/-- The machine in INIT's last stage with the SRTA in flight. -/
def assigning (u : State) (n : Nat) (f : RegFile) (d : Dev) : State :=
  inFlight (assignSetup u.cfg u.cfg.pmicHwAddr u.cfg.pmicRtAddr) (initAt u 4 0 n (freeCtl f) d)

section
variable {u : State} {n : Nat} {f : RegFile} {d : Dev} (hapart : u.cfg.fieldsApart = true) (hmode : d.mode = .rsb)
  (hhw : d.hw = u.cfg.pmicHwAddr) (hsuccess : peekDraw u n = u.cfg.statSuccess)
include hapart hmode hhw hsuccess

theorem reportedStatus_assigning :
    reportedStatus (assigning u n f d)
      (matchesHw (assigning u n f d) (saddrSrta u.cfg u.cfg.pmicHwAddr u.cfg.pmicRtAddr)) = u.cfg.statSuccess := by
  have hmatch := matchesHw_saddrSrta (s := assigning u n f d) hapart hmode u.cfg.pmicRtAddr
  rw [← hhw, show matchesHw (assigning u n f d) (saddrSrta u.cfg d.hw u.cfg.pmicRtAddr) = true from hmatch,
    reportedStatus_addressed, ← hsuccess]
  exact peekDraw_initAt u 4 0 n (freeCtl f) d 0

theorem srtaDone_assigning_dev :
    (srtaDone (saddrSrta u.cfg u.cfg.pmicHwAddr u.cfg.pmicRtAddr) (assigning u n f d)).dev =
      { d with rt := some u.cfg.pmicRtAddr } := by
  have hstatus := reportedStatus_assigning (f := f) hapart hmode hhw hsuccess
  rw [srtaDone_dev_of_effect (hasEffect_of_reportedStatus hstatus)]
  exact congrArg (fun a => { d with rt := some a }) (saddrRta_saddrSrta hapart _ _)

/-- ASSIGN_RTA, completed at once with success, ends INIT with the device at its runtime address. -/
theorem RunsInit.assignRta_run (h : RunsInit u) :
    ∃ t, RunBy (transactionTurns 2) (initAt u 4 0 n (freeCtl f) d) (respond .ok 0 0 t) ∧
      TransactionRan 3 (initAt u 4 0 n (freeCtl f) d) t ∧ t.dev = { d with rt := some u.cfg.pmicRtAddr } ∧
      t.ctl.regs = { f with
        ctrl := u.cfg.ctrlStartTrans, stat := u.cfg.statSuccess, cmd := u.cfg.cmdSrta.zext
        saddr := saddrSrta u.cfg u.cfg.pmicHwAddr u.cfg.pmicRtAddr } := by
  have hstatus := reportedStatus_assigning (f := f) hapart hmode hhw hsuccess
  obtain ⟨t, hrun, hcheck, hran, hseq, hdev, hregs⟩ := HasToRun.transaction_run (n := 2) (ms := [])
    (ws := assignSetup u.cfg u.cfg.pmicHwAddr u.cfg.pmicRtAddr)
    (h.hasToRun (stage := 4) (mpc := 0) (n := n) (k := freeCtl f) (d := d) rfl) ⟨rfl, rfl⟩
    (by simp [assignSetup]) (by simp [afterSetup, assignSetup, regSet, initAt])
    (ctlStep_of_srta (s := assigning u n f d) h.cfgWf rfl) (srtaDone_frame _ _)
    (fun j => peekDraw_consumeDraws 2 j _) hstatus
  rw [hcheck.advance_last rfl rfl,
    partDone_init_last (by rw [hseq]; exact h.op) (by rw [hseq]; exact Nat.lt_irrefl _)] at hrun
  refine ⟨_, hrun, { hran with }, hdev.trans (srtaDone_assigning_dev hapart hmode hhw hsuccess), hregs.trans ?_⟩
  rw [← hstatus]
  rfl

end

/-! ## The whole INIT (R201) -/

/-- Acceptance brings INIT to its first place. -/
theorem accept_init_eq_initAt (s : State) :
    accept .init (freshLatches s) .reset s =
      initAt (accept .init (freshLatches s) .reset s) 0 0 0 s.ctl s.dev := by
  rw [accept_eq_startPart, startPart_ok rfl]
  rfl

/-- What an INIT completed at once leaves of the machine `u` that accepted it, besides S (95_test_vectors.md P1). -/
structure InitRan (u : State) (d : Dev) (t : State) : Prop where
  cfg : t.cfg = u.cfg
  platformReady : t.platformReady = u.platformReady
  flags : t.flags = u.flags
  ctlReady : CtlReady t.ctl
  dev : t.dev = { d with mode := .rsb, rt := some u.cfg.pmicRtAddr }
  regs : t.ctl.regs = { drawnRegs u 0 with
    ctrl := u.cfg.ctrlStartTrans, stat := u.cfg.statSuccess, cmd := u.cfg.cmdSrta.zext
    ccr := ccrValue u.cfg u.cfg.hsSrcFreq u.cfg.opBusFreq, pmcr := pmcrValue u.cfg u.cfg.modeSwitchPayload
    saddr := saddrSrta u.cfg u.cfg.pmicHwAddr u.cfg.pmicRtAddr }

/-- The five stages one after another, each from the place where the one before it ended. -/
theorem RunsInit.init_run {u : State} (h : RunsInit u) {k : Ctl} {d : Dev} (hapart : u.cfg.fieldsApart = true)
    (hfree : k.busy = .none) (hmode : d.mode = .i2c) (hhw : d.hw = u.cfg.pmicHwAddr)
    (hswitch : isModeSwitch u.cfg.modeSwitchPayload = true) (hreceived : (peekDraw u 12).getLsbD 0 = true)
    (hsuccess : peekDraw u 14 = u.cfg.statSuccess) :
    ∃ t, RunBy [.sequencer, .controller, .sequencer, .sequencer, .sequencer, .controller, .sequencer, .sequencer,
      .sequencer, .sequencer, .sequencer, .controller, .sequencer, .sequencer] (initAt u 0 0 0 k d) (respond .ok 0 0 t) ∧
      InitRan u d t := by
  have hreset := h.reset_run (n := 0) (d := d) hfree
  have hslow := h.setSpeed_run (stage := 1) (n := 12) (d := d) (f := drawnRegs u 0) rfl (by decide)
  have hmodeSwitch := h.modeSwitch_run hapart hmode hreceived hswitch
    (f := { drawnRegs u 0 with ccr := ccrValue u.cfg u.cfg.hsSrcFreq u.cfg.hsBusFreq })
  have hfast := h.setSpeed_run (stage := 3) (n := 14) (d := { d with mode := .rsb, rt := none })
    (f := { drawnRegs u 0 with
      ccr := ccrValue u.cfg u.cfg.hsSrcFreq u.cfg.hsBusFreq, pmcr := pmcrValue u.cfg u.cfg.modeSwitchPayload })
    rfl (by decide)
  obtain ⟨t, hassign, hran, hdev, hregs⟩ := h.assignRta_run (d := { d with mode := .rsb, rt := none })
    (f := { drawnRegs u 0 with
      ccr := ccrValue u.cfg u.cfg.hsSrcFreq u.cfg.opBusFreq, pmcr := pmcrValue u.cfg u.cfg.modeSwitchPayload })
    hapart rfl hhw hsuccess
  exact ⟨t, hreset.append (hslow.append (hmodeSwitch.append (hfast.append hassign))),
    hran.cfg, hran.platformReady, hran.flags, hran.ctlReady, hdev, hregs⟩

theorem readValue_ctrl_of_free {s : State} (hwf : s.cfg.wf = true) (hready : s.platformReady = true)
    (hfree : s.ctl.busy = .none) : readValue .ctrl s &&& (s.cfg.ctrlSoftRst ||| s.cfg.ctrlStartTrans) = 0 := by
  rw [readValue_ctrl_of_ready hready]
  exact ctrlRead_and_triggers_of_free hwf hfree

/-- With nothing in flight PMCR reads the payload that S wrote (10_state.md R32). -/
theorem readValue_pmcr_of_payload {s : State} (hapart : s.cfg.fieldsApart = true) (hready : s.platformReady = true)
    (hfree : s.ctl.busy = .none) {p : Payload} (hpmcr : s.ctl.regs.pmcr = pmcrValue s.cfg p) :
    readValue .pmcr s = p.zeroExtend 32 := by
  rw [readValue_pmcr_of_ready hready, pmcrRead, hpmcr, pmcrValue_and_not_start hapart]
  simp [hfree, Busy.isPmode]

/-- Settles O37: acceptance, then the five stages, and in the end state the trigger bits read 0 as nothing is in flight. -/
theorem initOperationBringsDeviceUp : Obligations.InitOperationBringsDeviceUp := by
  intro s r hat hdecode hapart hready hfree hmode hhw hswitch hhs hop hplan hreceived hsuccess
  obtain ⟨haccept, -⟩ := hat.accept_run hdecode (op := .init) rfl rfl hready
  have hinit : RunsInit (accept .init (freshLatches s) .reset s) := by
    rw [accept_eq_startPart, startPart_ok rfl]
    exact ⟨hat.cfgWf, hat.noReset, hready, rfl, rfl, initPart_partOk hhs hop⟩
  have hcfg : (accept .init (freshLatches s) .reset s).cfg = s.cfg := accept_cfg _ _ _ _
  have hdraws := peekDraw_accept .init (freshLatches s) .reset s
  obtain ⟨t, hrun, hran⟩ := hinit.init_run (by rwa [hcfg]) hfree hmode (by rwa [hcfg]) (by rwa [hcfg]) (by rwa [hdraws])
    (by rw [hdraws, hcfg]; exact hsuccess)
  rw [← accept_init_eq_initAt] at hrun
  obtain ⟨g, hreach⟩ := (haccept.append hrun).reaches_of_planned hat.cfgWf hplan
  have hcfgEnd : t.cfg = s.cfg := hran.cfg.trans hcfg
  have hreadyEnd : t.platformReady = true := hran.platformReady.trans hinit.ready
  have hwfEnd : t.cfg.wf = true := hcfgEnd ▸ hat.cfgWf
  have hregs := hran.regs
  rw [hcfg] at hregs
  refine ⟨_, hreach, (respond_responded _ _ _ _).congr rfl, hran.flags.trans (accept_flags _ _ _ s), hran.ctlReady.free,
    hran.ctlReady.wasReset, hregs.trans ?_, ?_, ?_, ?_⟩
  · simp only [drawnRegs, softResetDone, consumeDraws_zero, consumeDraws_ctl, hdraws]
  · rw [← hcfgEnd]
    exact readValue_ctrl_of_free hwfEnd hreadyEnd hran.ctlReady.free
  · rw [← hcfgEnd]
    exact readValue_pmcr_of_payload (hcfgEnd ▸ hapart) hreadyEnd hran.ctlReady.free
      (by rw [hcfgEnd]; exact congrArg RegFile.pmcr hregs)
  · rw [← hcfg]; exact hran.dev

end Sys2Proof.Machine
end

section
/-! # 44_init.md R202: what an INIT that answers OK has done

`initOutline` is a proof outline of INIT's micro-programs: at each position of each stage, what is then known of C and P.
C's steps keep every row, and a micro-op that lets S advance leads from one row to the next. That no fault flag is set is
needed for one thing alone: on a platform that is not ready every read is a draw, and every access is flagged. -/

namespace Sys2Proof.Machine

/-! ## Runs -/

/-- What every step keeps holds along every run. -/
theorem Reaches.keeps {P : State → Prop} (hkeeps : ∀ s t, P s → step s = .next t → P t) {n : Nat} {s t : State}
    (h : Reaches n s t) (hs : P s) : P t := by
  induction n generalizing s with
  | zero =>
    obtain rfl := Host.Outcome.next.inj h
    exact hs
  | succ n ih =>
    cases hstep : step s with
    | next u =>
      have hrun := run_succ_of_step (M := Sys2Proof.core) (n := n) hstep
      exact ih (hrun.symm.trans h) (hkeeps s u hs hstep)
    | fault e => simp [Reaches, Host.Core.run, Sys2Proof.core, hstep] at h
    | refused e => simp [Reaches, Host.Core.run, Sys2Proof.core, hstep] at h

/-! ## No fault flag set -/

theorem FaultFlags.clear_iff (f : FaultFlags) :
    f.clear = true ↔ ¬f.notReady = true ∧ ¬f.notReset = true ∧ ¬f.overlap = true ∧ ¬f.badCmd = true := by
  simp [FaultFlags.clear, and_assoc]

/-- Flags that are clear after a step were clear before it (10_state.md R33). -/
theorem step_flags_clear {s t : State} (hstep : step s = .next t) (h : t.flags.clear = true) : s.flags.clear = true := by
  obtain ⟨hready, hreset, hoverlap, hcmd⟩ := (FaultFlags.clear_iff _).mp h
  obtain ⟨keepsReady, keepsReset, keepsOverlap, keepsCmd⟩ := faultFlagsAreSticky s t hstep
  exact (FaultFlags.clear_iff _).mpr
    ⟨mt keepsReady hready, mt keepsReset hreset, mt keepsOverlap hoverlap, mt keepsCmd hcmd⟩

/-- A register access that leaves the flags clear was made on a ready platform (70_reset_and_hazards.md R251). -/
theorem ready_of_accessFlags_clear {s : State} (h : (accessFlags s).clear = true) : s.platformReady = true := by
  obtain ⟨hready, -⟩ := (FaultFlags.clear_iff _).mp h
  by_contra hnot
  exact hready (by simp [accessFlags, hnot])

/-! ## What a micro-op does to its part -/

/-- The micro-op lets S advance, from the machine `u` that its register access leaves (41_poll.md R146 to R149). -/
inductive Passes (s : State) : MicroOp → State → Prop where
  | wr {off v : Word} {u : State} (hwrite : mmioWrite off v s = .next u) : Passes s (.wr off v) u
  | poll {off mask : Word} {r : Reg} (hreg : regAt s.cfg off = some r) (hclear : readValue r s &&& mask = 0) :
    Passes s (.poll off mask) { afterRead r s with seq := { s.seq with tries := 0 } }
  | status {r : Reg} (hreg : regAt s.cfg s.cfg.offStat = some r) (hsuccess : readValue r s = s.cfg.statSuccess) :
    Passes s .status (afterRead r s)
  | rddata {r : Reg} (hreg : regAt s.cfg s.cfg.offData = some r) :
    Passes s .rddata { afterRead r s with seq := { s.seq with data := (readValue r s).low8 } }

/-- A micro-op lets S advance, ends the operation with a failure, or is a poll that goes on. -/
theorem runMicroOp_outcomes {m : MicroOp} {s t : State} (h : runMicroOp m s = .next t) :
    (∃ u, Passes s m u ∧ t = advance u) ∨
      (∃ kind code r, kind ≠ .ok ∧ t = respond kind code 0 (afterRead r s)) ∨
      ∃ r, t = { afterRead r s with seq := { s.seq with tries := s.seq.tries + 1 } } := by
  rcases runMicroOp_cases h with
    ⟨off, v, u, rfl, hwrite, rfl⟩ | ⟨off, mask, r, rfl, hreg, rfl⟩ | ⟨r, rfl, hreg, rfl⟩ | ⟨r, rfl, hreg, rfl⟩
  · exact .inl ⟨u, .wr hwrite, rfl⟩
  · unfold pollStep
    split
    next hclear => exact .inl ⟨_, .poll hreg hclear, rfl⟩
    next =>
      split
      next => exact .inr (.inl ⟨.timeout, 0, r, by simp, rfl⟩)
      next => exact .inr (.inr ⟨r, rfl⟩)
  · unfold statusStep
    split
    next hsuccess => exact .inl ⟨_, .status hreg hsuccess, rfl⟩
    next => exact .inr (.inl ⟨.hwStatus, _, r, by simp, rfl⟩)
  · exact .inl ⟨_, .rddata hreg, rfl⟩

/-- The access leaves S as it is, but for the counter and the data latch. -/
theorem Passes.seq {s u : State} {m : MicroOp} (h : Passes s m u) :
    u.seq = { s.seq with tries := u.seq.tries, data := u.seq.data } := by
  cases h with
  | wr hwrite => rw [mmioWrite_seq hwrite]
  | poll => rfl
  | status => rfl
  | rddata => rfl

theorem Passes.cfg_dev {s u : State} {m : MicroOp} (h : Passes s m u) : u.cfg = s.cfg ∧ u.dev = s.dev := by
  cases h with
  | wr hwrite => exact ⟨(mmioWrite_seqFrame hwrite).cfg, (mmioWrite_seqFrame hwrite).dev⟩
  | poll => exact ⟨rfl, rfl⟩
  | status => exact ⟨rfl, rfl⟩
  | rddata => exact ⟨rfl, rfl⟩

/-- A poll that lets S advance, on a ready platform, did not wait for the operation in flight. -/
theorem Passes.poll_not_waiting {s u : State} {off mask : Word} (h : Passes s (.poll off mask) u) (hwf : s.cfg.wf = true)
    (hflags : u.flags.clear = true) : waitsFor s.cfg s.ctl.busy ≠ some (.poll off mask) := by
  intro hwait
  cases h with
  | poll hreg hclear =>
    obtain ⟨r, _, hop, hset⟩ := readValue_of_waiting hwf (ready_of_accessFlags_clear hflags) hwait
    obtain ⟨rfl, rfl⟩ := MicroOp.poll.inj hop
    obtain rfl := Option.some.inj ((regAt_offsetOf hwf r).symm.trans hreg)
    exact hset hclear

theorem Passes.poll_ctl {s u : State} {off mask : Word} (h : Passes s (.poll off mask) u) : u.ctl = s.ctl := by
  cases h
  rfl

/-- A status check that lets S advance, on a ready platform, found STAT at its success code. -/
theorem Passes.status_ctl {s u : State} (h : Passes s .status u) (hwf : s.cfg.wf = true) (hflags : u.flags.clear = true) :
    u.ctl = s.ctl ∧ s.ctl.regs.stat = s.cfg.statSuccess := by
  cases h with
  | status hreg hsuccess =>
    obtain rfl := Option.some.inj ((regAt_offsetOf hwf .stat).symm.trans hreg)
    rw [readValue, if_pos (ready_of_accessFlags_clear hflags)] at hsuccess
    exact ⟨rfl, hsuccess⟩

/-- A write to a register that triggers nothing stores its word (40_controller.md R127). -/
theorem Passes.store_ctl {s u : State} {r : Reg} {v : Word} (h : Passes s (.wr (offsetOf s.cfg r) v) u)
    (hwf : s.cfg.wf = true) (hplain : r ∉ [Reg.ctrl, .stat, .pmcr]) : u.ctl = { s.ctl with regs := regSet s.ctl.regs r v } := by
  simp only [List.mem_cons, List.not_mem_nil, or_false, not_or] at hplain
  obtain ⟨hctrl, hstat, hpmcr⟩ := hplain
  have hnone := decodeTrigger_eq_none (c := s.cfg) (v := v) (fun heq => absurd heq hctrl) (fun heq => absurd heq hpmcr)
  cases h with
  | wr hwrite =>
    obtain rfl := Host.Outcome.next.inj ((mmioWrite_of_no_trigger (regAt_offsetOf hwf r) hstat hnone).symm.trans hwrite)
    rfl

theorem Passes.softRst_ctl {s u : State} (h : Passes s (.wr s.cfg.offCtrl s.cfg.ctrlSoftRst) u) (hwf : s.cfg.wf = true) :
    u.ctl = resetStarted s.cfg s.ctl := by
  cases h with
  | wr hwrite =>
    obtain rfl := Host.Outcome.next.inj ((mmioWrite_softRst hwf).symm.trans hwrite)
    rfl

theorem Passes.pmcr_ctl {s u : State} {p : Payload} (h : Passes s (.wr s.cfg.offPmcr (pmcrValue s.cfg p)) u)
    (hwf : s.cfg.wf = true) : u.ctl = switchStarted s.cfg p s.ctl := by
  cases h with
  | wr hwrite =>
    obtain rfl := Host.Outcome.next.inj ((mmioWrite_pmcrValue hwf p).symm.trans hwrite)
    rfl

/-- The write that starts a transaction captures it, whatever flags it sets (40_controller.md R112). -/
theorem Passes.startTrans_ctl {s u : State} (h : Passes s (.wr s.cfg.offCtrl s.cfg.ctrlStartTrans) u)
    (hwf : s.cfg.wf = true) :
    u.ctl = { s.ctl with busy := capturedTrans s, regs := { s.ctl.regs with ctrl := s.cfg.ctrlStartTrans } } := by
  obtain ⟨-, hbit, -⟩ := triggerMasks_ne_zero hwf
  cases h with
  | wr hwrite =>
    have hstart := (mmioWrite_of_trigger (r := .ctrl) hwf (decodeTrigger_startTrans hwf)).trans
      (startTriggerCapturesTransaction s _ (by rwa [BitVec.and_self]) (by rw [BitVec.and_comm, triggers_apart hwf]))
    obtain rfl := Host.Outcome.next.inj (hstart.symm.trans hwrite)
    rfl

/-! ## The outline (R200) -/

/-- C is ready, at the operating speed. -/
structure AtOpSpeed (c : RsbConfig) (k : Ctl) : Prop where
  ctlReady : CtlReady k
  ccr : k.regs.ccr = ccrValue c c.hsSrcFreq c.opBusFreq

/-- The device has obeyed INIT's SRTA: RSB mode, and the runtime address that C reads out of SADDR. -/
structure DeviceUp (c : RsbConfig) (d : Dev) : Prop where
  mode : d.mode = .rsb
  rt : d.rt = some (saddrRta c (saddrSrta c c.pmicHwAddr c.pmicRtAddr))

/-- C has INIT's SRTA in flight, at the operating speed. -/
structure SrtaInFlight (c : RsbConfig) (k : Ctl) : Prop where
  wasReset : k.wasReset = true
  ccr : k.regs.ccr = ccrValue c c.hsSrcFreq c.opBusFreq
  busy : ∃ da d, k.busy = .trans c.cmdSrta.zext (saddrSrta c c.pmicHwAddr c.pmicRtAddr) da d

/-- C has completed INIT's SRTA: success means that the device is up (40_controller.md R113, R117). -/
structure SrtaDone (c : RsbConfig) (k : Ctl) (d : Dev) : Prop where
  atOpSpeed : AtOpSpeed c k
  up : k.regs.stat = c.statSuccess → DeviceUp c d

/-- What is known of C and P before micro-op `mpc` of stage `stage`, and at the stage's end. -/
def initOutline (c : RsbConfig) (stage mpc : Nat) (k : Ctl) (d : Dev) : Prop :=
  match stage, mpc with
  | 0, 0 => True
  | 0, 1 => k.busy = .resetting ∨ CtlReady k
  | 0, _ + 2 => CtlReady k
  | 1, _ => CtlReady k
  | 2, 0 => CtlReady k
  | 2, 1 => (k.wasReset = true ∧ ∃ p, k.busy = .pmode p) ∨ CtlReady k
  | 2, _ + 2 => CtlReady k
  | 3, 0 => CtlReady k
  | 3, _ + 1 => AtOpSpeed c k
  | _ + 4, 0 => AtOpSpeed c k
  | _ + 4, 1 => AtOpSpeed c k ∧ k.regs.saddr = saddrSrta c c.pmicHwAddr c.pmicRtAddr
  | _ + 4, 2 => AtOpSpeed c k ∧ k.regs.saddr = saddrSrta c c.pmicHwAddr c.pmicRtAddr ∧ k.regs.cmd = c.cmdSrta.zext
  | _ + 4, 3 => SrtaInFlight c k ∨ SrtaDone c k d
  | _ + 4, 4 => SrtaDone c k d
  | _ + 4, _ + 5 => AtOpSpeed c k ∧ DeviceUp c d

/-- The end of a stage before the last is the start of the next. -/
theorem initOutline_next {c : RsbConfig} {stage : Nat} {k : Ctl} {d : Dev}
    (h : initOutline c stage (prog c (initPart c stage)).length k d) (hstage : stage < initLastStage) :
    initOutline c (stage + 1) 0 k d := by
  match stage with
  | 0 => exact h
  | 1 => exact h
  | 2 => exact h
  | 3 => exact h
  | _ + 4 => exact absurd hstage (by simp [initLastStage])

theorem initOutline_end {c : RsbConfig} {stage : Nat} {k : Ctl} {d : Dev}
    (h : initOutline c stage (prog c (initPart c stage)).length k d) (hlast : ¬stage < initLastStage) :
    AtOpSpeed c k ∧ DeviceUp c d := by
  match stage with
  | 0 | 1 | 2 | 3 => exact absurd (by decide) hlast
  | _ + 4 => exact h

/-! ## C keeps the outline -/

theorem ctlStep_of_free {s t : State} (hstep : ctlStep s = .next t) (hfree : s.ctl.busy = .none) : t = s := by
  simpa [ctlStep, hfree] using hstep.symm

/-- INIT's SRTA completes with its outcome in STAT and in the device. -/
theorem SrtaInFlight.done {s t : State} (h : SrtaInFlight s.cfg s.ctl) (hwf : s.cfg.wf = true)
    (hstep : ctlStep s = .next t) : SrtaDone s.cfg t.ctl t.dev := by
  obtain ⟨da, d, hbusy⟩ := h.busy
  obtain rfl := Host.Outcome.next.inj ((ctlStep_of_srta hwf hbusy).symm.trans hstep)
  refine ⟨⟨⟨rfl, h.wasReset⟩, h.ccr⟩, fun hsuccess => ?_⟩
  obtain ⟨hmode, -⟩ := (matchesHw_iff s _).mp (addressed_of_reportedStatus hsuccess)
  rw [srtaDone_dev_of_effect (hasEffect_of_reportedStatus hsuccess)]
  exact ⟨hmode, rfl⟩

/-- With an operation in flight the outline is at INIT's start or at a poll, which C's step ends. -/
theorem ctlStep_initOutline {s t : State} {stage mpc : Nat} (hwf : s.cfg.wf = true) (hstep : ctlStep s = .next t)
    (h : initOutline s.cfg stage mpc s.ctl s.dev) : initOutline s.cfg stage mpc t.ctl t.dev := by
  by_cases hfree : s.ctl.busy = .none
  · rwa [ctlStep_of_free hstep hfree]
  have hready : ¬CtlReady s.ctl := fun hctl => hfree hctl.free
  have hspeed : ¬AtOpSpeed s.cfg s.ctl := fun hspeed => hready hspeed.ctlReady
  have hdone : ¬SrtaDone s.cfg s.ctl s.dev := fun hdone => hspeed hdone.atOpSpeed
  match stage, mpc with
  | 0, 0 => trivial
  | 0, 1 =>
    have hbusy : s.ctl.busy = .resetting := h.resolve_right hready
    simp only [ctlStep, hbusy, Host.Outcome.next.injEq] at hstep
    exact .inr (hstep ▸ ⟨rfl, rfl⟩)
  | 2, 1 =>
    obtain ⟨hreset, p, hbusy⟩ := h.resolve_right hready
    simp only [ctlStep, hbusy, Host.Outcome.next.injEq] at hstep
    exact .inr (hstep ▸ ⟨rfl, hreset⟩)
  | _ + 4, 3 => exact .inr ((h.resolve_right hdone).done hwf hstep)
  | 0, _ + 2 | 1, _ | 2, 0 | 2, _ + 2 | 3, 0 => exact absurd h hready
  | 3, _ + 1 | _ + 4, 0 => exact absurd h hspeed
  | _ + 4, 1 | _ + 4, 2 | _ + 4, _ + 5 =>
    obtain ⟨hat, -⟩ := h
    exact absurd hat hspeed
  | _ + 4, 4 => exact absurd h hdone

/-! ## S leads from one row of the outline to the next -/

theorem Passes.initOutline_succ {s u : State} {m : MicroOp} {stage mpc : Nat} (hpass : Passes s m u) (hwf : s.cfg.wf = true)
    (hflags : u.flags.clear = true) (hop : (prog s.cfg (initPart s.cfg stage))[mpc]? = some m)
    (h : initOutline s.cfg stage mpc s.ctl s.dev) : initOutline s.cfg stage (mpc + 1) u.ctl u.dev := by
  obtain ⟨-, hdev⟩ := hpass.cfg_dev
  rw [hdev]
  match stage, mpc with
  | 0, 0 =>
    obtain rfl := Option.some.inj hop
    exact .inl (hpass.softRst_ctl hwf ▸ rfl)
  | 0, 1 =>
    obtain rfl := Option.some.inj hop
    rw [hpass.poll_ctl]
    exact h.resolve_left fun hbusy => hpass.poll_not_waiting hwf hflags (by rw [hbusy]; rfl)
  | 1, 0 =>
    obtain rfl := Option.some.inj hop
    rw [hpass.store_ctl (r := .ccr) hwf (by simp)]
    exact ⟨h.free, h.wasReset⟩
  | 2, 0 =>
    obtain rfl := Option.some.inj hop
    rw [hpass.pmcr_ctl hwf]
    exact .inl ⟨h.wasReset, _, rfl⟩
  | 2, 1 =>
    obtain rfl := Option.some.inj hop
    rw [hpass.poll_ctl]
    exact h.resolve_left fun ⟨_, p, hbusy⟩ => hpass.poll_not_waiting hwf hflags (by rw [hbusy]; rfl)
  | 3, 0 =>
    obtain rfl := Option.some.inj hop
    rw [hpass.store_ctl (r := .ccr) hwf (by simp)]
    exact ⟨⟨h.free, h.wasReset⟩, rfl⟩
  | _ + 4, 0 =>
    obtain rfl := Option.some.inj hop
    rw [hpass.store_ctl (r := .saddr) hwf (by simp)]
    exact ⟨⟨⟨h.ctlReady.free, h.ctlReady.wasReset⟩, h.ccr⟩, rfl⟩
  | _ + 4, 1 =>
    obtain rfl := Option.some.inj hop
    obtain ⟨hspeed, hsaddr⟩ := h
    rw [hpass.store_ctl (r := .cmd) hwf (by simp)]
    exact ⟨⟨⟨hspeed.ctlReady.free, hspeed.ctlReady.wasReset⟩, hspeed.ccr⟩, hsaddr, rfl⟩
  | _ + 4, 2 =>
    obtain rfl := Option.some.inj hop
    obtain ⟨hspeed, hsaddr, hcmd⟩ := h
    rw [hpass.startTrans_ctl hwf]
    exact .inl ⟨hspeed.ctlReady.wasReset, hspeed.ccr, _, _, by rw [← hsaddr, ← hcmd]; rfl⟩
  | _ + 4, 3 =>
    obtain rfl := Option.some.inj hop
    rw [hpass.poll_ctl]
    refine h.resolve_left fun hsrta => ?_
    obtain ⟨da, d, hbusy⟩ := hsrta.busy
    exact hpass.poll_not_waiting hwf hflags (by rw [hbusy]; rfl)
  | _ + 4, 4 =>
    obtain rfl := Option.some.inj hop
    obtain ⟨hctl, hsuccess⟩ := hpass.status_ctl hwf hflags
    rw [hctl]
    exact ⟨h.atOpSpeed, h.up hsuccess⟩
  | 0, _ + 2 | 1, _ + 1 | 2, _ + 2 | 3, _ + 1 | _ + 4, _ + 5 => simp [initPart, prog, startAndWait] at hop

/-! ## The invariant -/

/-- S runs an INIT whose outline holds at its position. -/
structure InitRunning (s : State) : Prop where
  respValid : s.seq.respValid = false
  mprog : s.seq.mprog = prog s.cfg (initPart s.cfg s.seq.stage)
  outline : initOutline s.cfg s.seq.stage s.seq.mpc s.ctl s.dev

/-- A running INIT is where its outline says, and one that has answered OK has done its work. -/
structure InitInv (s : State) : Prop where
  running : s.seq.phase = .run → s.seq.op = .init → InitRunning s
  answered : s.seq.respValid = true → s.seq.op = .init → s.seq.respKind = .ok →
    AtOpSpeed s.cfg s.ctl ∧ DeviceUp s.cfg s.dev

theorem InitInv.of_other {s : State} (h : s.seq.op ≠ .init) : InitInv s :=
  ⟨fun _ hop => absurd hop h, fun _ hop => absurd hop h⟩

theorem InitInv.of_running {s : State} (h : InitRunning s) : InitInv s :=
  ⟨fun _ _ => h, fun hvalid => by simp [h.respValid] at hvalid⟩

theorem InitInv.of_silent_idle {s : State} (hphase : s.seq.phase = .idle) (hvalid : s.seq.respValid = false) : InitInv s :=
  ⟨fun hrun => by simp [hphase] at hrun, fun h => by simp [hvalid] at h⟩

theorem InitInv.of_failure {kind : RespKind} (hkind : kind ≠ .ok) (code : Word) (s : State) :
    InitInv (respond kind code 0 s) :=
  ⟨fun hrun => by simp at hrun, fun _ _ hok => absurd hok hkind⟩

theorem InitInv.congr {s t : State} (h : InitInv s) (hcfg : t.cfg = s.cfg) (hseq : t.seq = s.seq) (hctl : t.ctl = s.ctl)
    (hdev : t.dev = s.dev) : InitInv t where
  running hrun hop := by
    rw [hseq] at hrun hop
    obtain ⟨hvalid, hmprog, houtline⟩ := h.running hrun hop
    exact ⟨by rwa [hseq], by rwa [hseq, hcfg], by rwa [hseq, hcfg, hctl, hdev]⟩
  answered := by rw [hseq, hcfg, hctl, hdev]; exact h.answered

/-! ## S keeps the invariant -/

/-- A part starts with the outline's first row of its stage, or is answered with a failure. -/
theorem InitInv.startPart_init {s : State} (hvalid : s.seq.respValid = false)
    (h : initOutline s.cfg s.seq.stage 0 s.ctl s.dev) : InitInv (startPart (initPart s.cfg s.seq.stage) s) := by
  cases hok : partOk (initPart s.cfg s.seq.stage) with
  | false =>
    rw [startPart_invalid hok]
    exact .of_failure (by simp) 0 s
  | true =>
    rw [startPart_ok hok]
    exact .of_running ⟨hvalid, rfl, h⟩

/-- The end of a stage starts the next, and the end of the last answers OK with INIT's work done. -/
theorem InitInv.partDone_init {s : State} (hop : s.seq.op = .init) (hvalid : s.seq.respValid = false)
    (h : initOutline s.cfg s.seq.stage (prog s.cfg (initPart s.cfg s.seq.stage)).length s.ctl s.dev) :
    InitInv (partDone s) := by
  by_cases hstage : s.seq.stage < initLastStage
  · rw [partDone_init_stage hop hstage]
    exact .startPart_init (s := { s with seq := { s.seq with stage := s.seq.stage + 1 } }) hvalid (initOutline_next h hstage)
  · rw [partDone_init_last hop hstage]
    exact ⟨fun hrun => by simp at hrun, fun _ _ _ => initOutline_end h hstage⟩

/-- Past a micro-op INIT is at the next row of its stage or at the stage's end. -/
theorem InitInv.advance_init {s : State} (hop : s.seq.op = .init) (hvalid : s.seq.respValid = false)
    (hmprog : s.seq.mprog = prog s.cfg (initPart s.cfg s.seq.stage))
    (h : initOutline s.cfg s.seq.stage (s.seq.mpc + 1) s.ctl s.dev) : InitInv (advance s) := by
  unfold advance
  split
  next hlast =>
    rw [hlast, hmprog] at h
    exact .partDone_init (s := { s with seq := { s.seq with mpc := s.seq.mpc + 1 } }) hop hvalid h
  next => exact .of_running ⟨hvalid, hmprog, h⟩

theorem startPart_seq_op (p : Part) (s : State) : (startPart p s).seq.op = s.seq.op := by
  unfold startPart; split <;> rfl

theorem partDone_seq_op (s : State) : (partDone s).seq.op = s.seq.op := by
  unfold partDone
  split
  case h_7 | h_8 =>
    split
    · exact startPart_seq_op _ _
    · rfl
  all_goals rfl

theorem advance_seq_op (s : State) : (advance s).seq.op = s.seq.op := by
  unfold advance
  split
  · exact partDone_seq_op _
  · rfl

/-- A micro-op keeps the operation. -/
theorem runMicroOp_seq_op {m : MicroOp} {s t : State} (h : runMicroOp m s = .next t) : t.seq.op = s.seq.op := by
  rcases runMicroOp_outcomes h with ⟨u, hpass, rfl⟩ | ⟨kind, code, r, -, rfl⟩ | ⟨r, rfl⟩
  · rw [advance_seq_op, hpass.seq]
  · rfl
  · rfl

theorem InitRunning.runMicroOp_initInv {m : MicroOp} {s t : State} (h : InitRunning s) (hwf : s.cfg.wf = true)
    (hop : s.seq.op = .init) (hcurrent : s.seq.mprog[s.seq.mpc]? = some m) (hrun : runMicroOp m s = .next t)
    (hflags : t.flags.clear = true) : InitInv t := by
  rcases runMicroOp_outcomes hrun with ⟨u, hpass, rfl⟩ | ⟨kind, code, r, hkind, rfl⟩ | ⟨r, rfl⟩
  · rw [advance_flags] at hflags
    have hseq := hpass.seq
    obtain ⟨hcfg, -⟩ := hpass.cfg_dev
    rw [h.mprog] at hcurrent
    have hnext := hpass.initOutline_succ hwf hflags hcurrent h.outline
    refine .advance_init (by rw [hseq]; exact hop) (by rw [hseq]; exact h.respValid) ?_ ?_
    · rw [hseq, hcfg]; exact h.mprog
    · rw [hseq, hcfg]; exact hnext
  · exact .of_failure hkind code _
  · exact .of_running ⟨h.respValid, h.mprog, h.outline⟩

/-- Acceptance starts INIT's first stage, of which the outline asks nothing. -/
theorem accept_initInv {op : ReqOp} {q : Seq} {p : Part} {s : State} (hlatched : LatchedFor op q p s) :
    InitInv (accept op q p s) := by
  rw [accept_eq_startPart]
  by_cases hop : op = .init
  · subst hop
    have hpart := hlatched.firstPart (consumeDraws 9 { s with request := none, seq := acceptedSeq .init q }) rfl
    rw [← hpart]
    exact .startPart_init (s := consumeDraws 9 { s with request := none, seq := acceptedSeq .init q }) rfl trivial
  · exact .of_other (by rw [startPart_seq_op]; exact hop)

theorem InitInv.seqStep_initInv {s t : State} (h : InitInv s) (hwf : s.cfg.wf = true) (hstep : seqStep s = .next t)
    (hflags : t.flags.clear = true) : InitInv t := by
  rcases seqStep_cases hstep with
    ⟨-, rfl⟩ | ⟨-, -, -, rfl⟩ | ⟨-, hidle, r, i, -, hdecode, hexec⟩ | ⟨-, hphase, m, hcurrent, hrun⟩
  · exact .of_silent_idle rfl rfl
  · exact h
  · obtain ⟨op, q, p, haccept, hlatched⟩ := exec_latchedFor_of_decodeRequest hdecode s
    rw [haccept, acceptWhenIdle_idle hidle] at hexec
    obtain rfl := Host.Outcome.next.inj hexec
    exact accept_initInv hlatched
  · by_cases hop : s.seq.op = .init
    · exact (h.running hphase hop).runMicroOp_initInv hwf hop hcurrent hrun hflags
    · exact .of_other (by rwa [runMicroOp_seq_op hrun])

/-! ## C and H keep the invariant -/

/-- C completes what INIT waits for, and has nothing in flight once INIT has answered OK. -/
theorem InitInv.ctlStep_initInv {s t : State} (h : InitInv s) (hwf : s.cfg.wf = true) (hstep : ctlStep s = .next t) :
    InitInv t where
  running hrun hop := by
    have hframe := ctlStep_ctlFrame hstep
    rw [hframe.seq] at hrun hop
    obtain ⟨hvalid, hmprog, houtline⟩ := h.running hrun hop
    exact ⟨by rwa [hframe.seq], by rwa [hframe.seq, hframe.cfg],
      by rw [hframe.seq, hframe.cfg]; exact ctlStep_initOutline hwf hstep houtline⟩
  answered hvalid hop hkind := by
    rw [(ctlStep_ctlFrame hstep).seq] at hvalid hop hkind
    obtain ⟨hspeed, hup⟩ := h.answered hvalid hop hkind
    rw [ctlStep_of_free hstep hspeed.ctlReady.free]
    exact ⟨hspeed, hup⟩

/-- H reaches neither S nor C nor P. -/
theorem InitInv.step_initInv {s t : State} (h : InitInv s) (hstep : step s = .next t) (hflags : t.flags.clear = true) :
    InitInv t := by
  obtain ⟨hwf, u, rfl, hagent⟩ := step_cases hstep
  rw [passTurn_flags] at hflags
  refine InitInv.congr (s := u) ?_ (passTurn_cfg u) (passTurn_seq u) (passTurn_ctl u) (passTurn_dev u)
  rcases hagent with ⟨-, hseq⟩ | ⟨-, hctl⟩ | ⟨-, rfl⟩
  · exact h.seqStep_initInv hwf hseq hflags
  · exact h.ctlStep_initInv hwf hctl
  · have hframe := hostStep_hostFrame s
    exact h.congr hframe.cfg hframe.seq hframe.ctl hframe.dev

/-! ## The statement -/

/-- Settles O38: the invariant holds at an idle start without a response, and every step keeps it while the flags are
clear, which at the end of the run they are all along. -/
theorem initOkMeansDeviceIsUp : Obligations.InitOkMeansDeviceIsUp := by
  refine ⟨fun n s t hphase hvalid hapart hreach hop hresp hkind hflags => ?_, by decide⟩
  have hcfg : t.cfg = s.cfg := by
    refine hreach.keeps (P := fun u => u.cfg = s.cfg) (fun u v hu hstep => ?_) rfl
    obtain ⟨hcfg, -⟩ := launchParametersNeverChange u v hstep
    exact hcfg.trans hu
  have hinv : InitInv t :=
    hreach.keeps (P := fun u => u.flags.clear = true → InitInv u)
      (fun u v hu hstep hclear => (hu (step_flags_clear hstep hclear)).step_initInv hstep hclear)
      (fun _ => .of_silent_idle hphase hvalid) hflags
  obtain ⟨hspeed, hup⟩ := hinv.answered hresp hop hkind
  rw [hcfg] at hspeed hup
  exact ⟨hup.mode, hup.rt.trans (congrArg some (saddrRta_saddrSrta hapart _ _)), hspeed.ccr, hspeed.ctlReady.free,
    hspeed.ctlReady.wasReset⟩

end Sys2Proof.Machine
end

section
/-! # 45_client_boundary.md: power actions and scratch accesses -/

namespace Sys2Proof.Machine

/-! ## A presented power action (R213) -/

/-- A host that waits for no response presents its next line in IDLE with an empty port (60_exceptions.md R222). -/
theorem hostStep_presents {s : State} (hrunning : s.host.status = .running) (hawaiting : s.host.awaiting = false)
    (hport : s.request = none) (hidle : s.seq.phase = .idle) : hostStep s = hostPresent s := by
  simp [hostStep, hrunning, hawaiting, portFree, hport, hidle]

theorem hostPresent_powerAction {s : State} {w : PowerWrite} {rest : List HostAction}
    (hprogram : s.host.program = .powerAction w :: rest) :
    hostPresent s =
      { s with
        request := some (powerRequest s.cfg w)
        host := { s.host with program := rest, awaiting := true, status := .off } } := by
  simp [hostPresent, hprogram]

/-- Settles O56: H's one step puts the action's request at the port and turns H off, and its frame holds S, C and P. -/
theorem powerActionEndsHostProgram : Obligations.PowerActionEndsHostProgram := by
  refine ⟨fun s w rest hwf hturn hrunning hawaiting hport hidle hprogram => ?_,
    fun c w answers => ⟨rfl, rfl, rfl, rfl⟩⟩
  have hstep := (hostStep_presents hrunning hawaiting hport hidle).trans (hostPresent_powerAction hprogram)
  have hframe := hostStep_hostFrame s
  refine ⟨passTurn (hostStep s), powerRequest s.cfg w, step_of_hostTurn hwf hturn, ?_, ?_, ?_, ?_, ?_, ?_, ?_⟩
  · rw [passTurn_request, hstep]
  · rw [passTurn_host, hstep]
  · rw [passTurn_seq, hframe.seq]
  · rw [passTurn_ctl, hframe.ctl]
  · rw [passTurn_dev, hframe.dev]
  · rintro reg val rfl
    exact decodeRequest_powerRequest s.cfg (.write8 reg val)
  · rintro reg clr set rfl
    exact decodeRequest_powerRequest s.cfg (.rmw reg clr set)

/-! ## Scratch accesses (R211) -/

theorem decodeRequest_read8Request (rt reg : Byte) : decodeRequest (read8Request rt reg) = some (.rsbRd8 rt reg) :=
  decodeRequest_encodeRequest (i := .rsbRd8 rt reg) rfl

theorem decodeRequest_write8Request (rt reg val : Byte) :
    decodeRequest (write8Request rt reg val) = some (.rsbWr8 rt reg val) :=
  decodeRequest_encodeRequest (i := .rsbWr8 rt reg val) rfl

theorem scratchAccess_within {c : RsbConfig} {slot : Nat} (h : slot < c.scratchSlots) (r : Request) :
    scratchAccess c slot r = .ok [.request r] := if_pos h

theorem scratchAccess_beyond {c : RsbConfig} {slot : Nat} (h : ¬slot < c.scratchSlots) (r : Request) :
    scratchAccess c slot r = .error .outOfRange := if_neg h

theorem scratchResult_beyond {c : RsbConfig} {slot : Nat} (h : ¬slot < c.scratchSlots) (onOk : Response → CallResult)
    (answers : List Response) : scratchResult c slot onOk answers = some (.clientError .outOfRange) := if_neg h

theorem lt_default_scratchSlots_iff (slot : Nat) : slot < RsbConfig.default.scratchSlots ↔ slot ≤ 11 := Nat.lt_succ_iff

/-- Settles O57: the default configuration has the twelve slots 0 to 11, and the bound alone decides between one request
and the client's error. -/
theorem scratchAccessBounds : Obligations.ScratchAccessBounds := by
  refine fun slot v answers => ⟨fun hwithin => ?_, fun hbeyond => ?_⟩
  · have hslot := (lt_default_scratchSlots_iff slot).mpr hwithin
    exact ⟨⟨_, scratchAccess_within hslot _, decodeRequest_read8Request _ _⟩,
      ⟨_, scratchAccess_within hslot _, decodeRequest_write8Request _ _ v⟩⟩
  · have hslot : ¬slot < RsbConfig.default.scratchSlots := by rw [lt_default_scratchSlots_iff]; omega
    exact ⟨scratchAccess_beyond hslot _, scratchAccess_beyond hslot _, scratchResult_beyond hslot _ answers,
      scratchResult_beyond hslot _ answers⟩

end Sys2Proof.Machine
end

section
/-! # 60_exceptions.md: accepting, waiting and going on

One lemma per agent says that its step has a next state. For S it rests on what the micro-programs access: every offset is
that of a register, and no write goes to STAT. -/

namespace Sys2Proof.Machine

/-! ## The decoded instruction in a step (R221) -/

/-- A triggering write of S is the instruction it decodes to, and then S advances (20_memory.md R61, 41_poll.md R147). -/
theorem AtMicroOp.seqStep_of_trigger {s : State} {off v : Word} {r : Reg} {i : Instr} (h : AtMicroOp (.wr off v) s)
    (hreg : regAt s.cfg off = some r) (hdecode : decodeTrigger s.cfg r v = some i) :
    seqStep s = onNext (exec i s) advance := by
  obtain rfl := offsetOf_of_regAt hreg
  rw [h.seqStep_eq, runMicroOp, mmioWrite_of_trigger h.cfgWf hdecode]

theorem ctlStep_of_decode {s : State} {cmd sa da d : Word} {i : Instr} (hbusy : s.ctl.busy = .trans cmd sa da d)
    (hdecode : decodeCommand s.cfg cmd = some i) : ctlStep s = exec i s := by
  simp only [ctlStep, hbusy, hdecode]

/-- Settles O5: the step of S or of C at a decoded word is the meaning of the instruction. -/
theorem stepRunsDecodedInstruction : Obligations.StepRunsDecodedInstruction := by
  refine ⟨fun s r i hturn hat hdecode => ?_, fun s off v r i hturn hat hreg hdecode => ?_,
    fun s cmd sa da d i hwf hturn hbusy hdecode => ?_⟩
  · rw [step_of_seqTurn hat.cfgWf hturn, hat.seqStep_of_decode hdecode]
  · rw [step_of_seqTurn hat.cfgWf hturn, hat.seqStep_of_trigger hreg hdecode]
  · rw [step_of_ctlTurn hwf hturn, ctlStep_of_decode hbusy hdecode]

/-! ## A request waits while an operation runs (R221) -/

/-- In RUN S runs a micro-op or obeys its reset line, and neither takes a request (70_reset_and_hazards.md R250; log 8). -/
theorem seqStep_request_of_run {s t : State} (h : seqStep s = .next t) (hrun : s.seq.phase = .run) :
    t.request = s.request := by
  rcases seqStep_cases h with ⟨-, rfl⟩ | ⟨-, -, -, rfl⟩ | ⟨-, hidle, -⟩ | ⟨-, -, m, -, hop⟩
  · rfl
  · rfl
  · exact absurd (hidle.symm.trans hrun) (by decide)
  · exact runMicroOp_request hop

/-- While an operation runs the port is not free, so H neither presents a line nor reads a response (R222). -/
theorem hostStep_of_run {s : State} (hrun : s.seq.phase = .run) : hostStep s = s := by
  rcases hostStep_cases s with hwait | ⟨-, hfree, -⟩
  · exact hwait
  · simp [portFree, hrun] at hfree

/-- Settles O11: each agent's step in RUN leaves the request port alone, and passing the turn does too. -/
theorem runningOperationKeepsRequestWaiting : Obligations.RunningOperationKeepsRequestWaiting := by
  intro s t h hrun
  obtain ⟨-, u, rfl, hagent⟩ := step_cases h
  rw [passTurn_request]
  rcases hagent with ⟨-, hseq⟩ | ⟨-, hctl⟩ | ⟨-, rfl⟩
  · exact seqStep_request_of_run hseq hrun
  · exact (ctlStep_ctlFrame hctl).request
  · rw [hostStep_of_run hrun]

/-! ## What the micro-programs access -/

/-- A micro-op whose access has a meaning: at an offset where a register stands, and no write to STAT (20_memory.md R61,
40_controller.md R127). -/
inductive AccessDefined (c : RsbConfig) : MicroOp → Prop where
  | wr (r : Reg) (v : Word) (hstat : r ≠ .stat) : AccessDefined c (.wr (offsetOf c r) v)
  | poll (r : Reg) (mask : Word) : AccessDefined c (.poll (offsetOf c r) mask)
  | status : AccessDefined c .status
  | rddata : AccessDefined c .rddata

theorem startAndWait_accessDefined (c : RsbConfig) : ∀ m ∈ startAndWait c, AccessDefined c m := by
  simp only [startAndWait, List.forall_mem_cons]
  exact ⟨.wr .ctrl _ (by decide), .poll .ctrl _, .status, by simp⟩

theorem prog_accessDefined (c : RsbConfig) (p : Part) : ∀ m ∈ prog c p, AccessDefined c m := by
  have htail := startAndWait_accessDefined c
  cases p with
  | reset =>
    simp only [prog, List.forall_mem_cons]
    exact ⟨.wr .ctrl _ (by decide), .poll .ctrl _, by simp⟩
  | setSpeed src bus =>
    simp only [prog, List.forall_mem_cons]
    exact ⟨.wr .ccr _ (by decide), by simp⟩
  | modeSwitch payload =>
    simp only [prog, List.forall_mem_cons]
    exact ⟨.wr .pmcr _ (by decide), .poll .pmcr _, by simp⟩
  | assignRta hw rt =>
    simp only [prog, List.forall_mem_append, List.forall_mem_cons]
    exact ⟨⟨.wr .saddr _ (by decide), .wr .cmd _ (by decide), by simp⟩, htail⟩
  | read8 rt reg =>
    simp only [prog, List.forall_mem_append, List.forall_mem_cons]
    exact ⟨⟨⟨.wr .cmd _ (by decide), .wr .saddr _ (by decide), .wr .daddr _ (by decide), by simp⟩, htail⟩,
      .rddata, by simp⟩
  | write8 rt reg val =>
    simp only [prog, List.forall_mem_append, List.forall_mem_cons]
    exact ⟨⟨.wr .cmd _ (by decide), .wr .saddr _ (by decide), .wr .daddr _ (by decide), .wr .data _ (by decide), by simp⟩,
      htail⟩

/-! ## Every agent goes on (R222) -/

theorem exists_onNext {o : Host.Outcome State Fault Refusal} (h : ∃ t, o = .next t) (f : State → State) :
    ∃ t, onNext o f = .next t := by
  obtain ⟨t, rfl⟩ := h
  exact ⟨f t, rfl⟩

/-- A write to a register other than STAT starts an operation or is stored. -/
theorem mmioWrite_next {s : State} (hwf : s.cfg.wf = true) {r : Reg} (hstat : r ≠ .stat) (v : Word) :
    ∃ t, mmioWrite (offsetOf s.cfg r) v s = .next t := by
  cases hdecode : decodeTrigger s.cfg r v with
  | none => exact ⟨_, mmioWrite_of_no_trigger (regAt_offsetOf hwf r) hstat hdecode⟩
  | some i => rw [mmioWrite_of_trigger hwf hdecode]; exact exec_next i s

theorem mmioRead_next {s : State} (hwf : s.cfg.wf = true) (r : Reg) (use : Word → State → State) :
    ∃ t, mmioRead (offsetOf s.cfg r) use s = .next t :=
  ⟨_, by rw [mmioRead, regAt_offsetOf hwf]⟩

theorem runMicroOp_next {s : State} (hwf : s.cfg.wf = true) {m : MicroOp} (h : AccessDefined s.cfg m) :
    ∃ t, runMicroOp m s = .next t := by
  cases h with
  | wr r v hstat => exact exists_onNext (mmioWrite_next hwf hstat v) advance
  | poll r mask => exact mmioRead_next hwf r (pollStep mask)
  | status => exact mmioRead_next hwf .stat statusStep
  | rddata => exact mmioRead_next hwf .data dataStep

/-- In RUN the invariant puts S at a micro-op of the current part's micro-program. -/
theorem SysInv.exists_currentOp {s : State} (h : SysInv s) (hrun : s.seq.phase = .run) :
    ∃ m ∈ prog s.cfg (currentPart s), currentOp s = some m := by
  obtain ⟨hprog, hposition, -⟩ := h.running hrun
  exact ⟨_, hprog ▸ List.getElem_mem hposition, List.getElem?_eq_getElem hposition⟩

theorem PortLegal.exists_decode {s : State} (h : PortLegal s) {r : Request} (hrequest : s.request = some r) :
    ∃ i, decodeRequest r = some i :=
  Option.ne_none_iff_exists'.mp fun hnone =>
    absurd ((decodeRequest_eq_none_iff r).mp hnone) (Nat.not_le_of_lt (h r hrequest))

theorem SysInv.seqStep_next {s : State} (h : SysInv s) (hport : PortLegal s) : ∃ t, seqStep s = .next t := by
  cases hreset : s.seqResetIn with
  | true => exact ⟨_, if_pos hreset⟩
  | false =>
    cases hphase : s.seq.phase with
    | idle =>
      cases hrequest : s.request with
      | none => exact ⟨s, by simp [seqStep, idleStep, hreset, hphase, hrequest]⟩
      | some r =>
        obtain ⟨i, hdecode⟩ := hport.exists_decode hrequest
        have hat : AtRequest r s := ⟨h.cfgWf, hreset, hphase, hrequest⟩
        rw [hat.seqStep_of_decode hdecode]
        exact exec_next i s
    | run =>
      obtain ⟨m, hmem, hop⟩ := h.exists_currentOp hphase
      have hat : AtMicroOp m s := ⟨h.cfgWf, hreset, hphase, hop⟩
      rw [hat.seqStep_eq]
      exact runMicroOp_next h.cfgWf (prog_accessDefined _ _ m hmem)

/-- C completes whatever is in flight, a reserved command too (40_controller.md R114). -/
theorem ctlStep_next (s : State) : ∃ t, ctlStep s = .next t := by
  cases hbusy : s.ctl.busy with
  | none => exact ⟨s, by simp only [ctlStep, hbusy]⟩
  | resetting => exact ⟨softResetDone s, by simp only [ctlStep, hbusy]⟩
  | pmode p => exact ⟨modeSwitchDone p s, by simp only [ctlStep, hbusy]⟩
  | trans cmd sa da d =>
    cases hdecode : decodeCommand s.cfg cmd with
    | none => exact ⟨_, ctlStep_of_reserved hbusy hdecode⟩
    | some i => rw [ctlStep_of_decode hbusy hdecode]; exact exec_next i s

theorem SysInv.step_next {s : State} (h : SysInv s) (hport : PortLegal s) : ∃ t, step s = .next t := by
  cases hturn : s.turn with
  | sequencer => rw [step_of_seqTurn h.cfgWf hturn]; exact exists_onNext (h.seqStep_next hport) passTurn
  | controller => rw [step_of_ctlTurn h.cfgWf hturn]; exact exists_onNext (ctlStep_next s) passTurn
  | host => exact ⟨_, step_of_hostTurn h.cfgWf hturn⟩

/-! ## Ill-formed configurations (41_poll.md R143, 20_memory.md R64) -/

theorem step_of_illFormed {s : State} (h : s.cfg.wf = false) : step s = .refused .illFormedConfig := by
  simp [step, h]

theorem rsbBase_aligned {c : RsbConfig} (h : c.wf = true) : c.rsbBase.toNat % 4 = 0 := by
  simp only [RsbConfig.wf, RsbConfig.baseOk, Bool.and_eq_true, beq_iff_eq] at h
  obtain ⟨⟨⟨⟨-, hbase⟩, -⟩, -⟩, -⟩ := h
  exact hbase

theorem offsetOf_mem_offsets (c : RsbConfig) (r : Reg) : offsetOf c r ∈ c.offsets := by
  cases r <;> simp [offsetOf, RsbConfig.offsets]

theorem offsetOf_aligned {c : RsbConfig} (h : c.wf = true) (r : Reg) : (offsetOf c r).toNat % 4 = 0 := by
  simp only [RsbConfig.wf, RsbConfig.offsetsOk, Bool.and_eq_true, List.all_eq_true, beq_iff_eq] at h
  obtain ⟨⟨⟨-, -, haligned⟩, -⟩, -⟩ := h
  exact haligned _ (offsetOf_mem_offsets c r)

/-- Settles O42: under the invariant each agent goes on, and a budget of 0 or a misaligned base or offset contradicts a
well-formed configuration. -/
theorem sysInvStepsGoOn : Obligations.SysInvStepsGoOn := by
  refine ⟨fun s h hport => h.step_next hport, fun s h => step_of_illFormed h, fun s hbad => step_of_illFormed ?_⟩
  rw [← Bool.not_eq_true]
  intro hwf
  rcases hbad with hbudget | hbase | ⟨r, hoffset⟩
  · exact (pollMaxTries_pos hwf).ne' hbudget
  · exact hbase (rsbBase_aligned hwf)
  · exact hoffset (offsetOf_aligned hwf r)

end Sys2Proof.Machine
end

section
/-! # 70_reset_and_hazards.md: the sequencer's reset and the accesses a hazard flags -/

namespace Sys2Proof.Machine

/-! ## The sequencer's reset (R250) -/

theorem seqStep_of_resetLine {s : State} (h : s.seqResetIn = true) : seqStep s = .next (seqReset s) := by
  simp [seqStep, h]

/-- Settles O54: the reset line comes before the phase and the request, and the reset changes S, the line and the draws. -/
theorem sequencerResetAbandonsOperation : Obligations.SequencerResetAbandonsOperation := by
  intro s hwf hturn hreset
  have hstep : step s = .next (passTurn (seqReset s)) := by
    rw [step_of_seqTurn hwf hturn, seqStep_of_resetLine hreset, onNext_next]
  refine ⟨_, hstep, ?_⟩
  rw [passTurn_seq, passTurn_ctl, passTurn_dev, passTurn_flags, passTurn_request, passTurn_host, passTurn_seqResetIn]
  exact ⟨rfl, rfl, rfl, rfl, rfl, rfl, rfl, rfl, rfl, rfl, rfl⟩

/-! ## Writes (R251, R254) -/

theorem writeFlags_notReady_of_unready {s : State} (h : s.platformReady = false) : (writeFlags s).notReady = true := by
  simp [writeFlags_eq, h]

theorem writeFlags_overlap_of_busy {s : State} (h : s.ctl.busy ≠ .none) : (writeFlags s).overlap = true := by
  simp [writeFlags_eq, h]

/-- A trigger adds flags to those of any write. -/
theorem ctrlWriteFlags_keeps_writeFlags {v : Word} {s : State} : FlagsKept (writeFlags s) (ctrlWriteFlags v s) where
  notReady := id
  notReset h := Bool.or_eq_true_iff.mpr (.inl h)
  overlap h := Bool.or_eq_true_iff.mpr (.inl h)
  badCmd h := Bool.or_eq_true_iff.mpr (.inl h)

theorem pmcrWriteFlags_keeps_writeFlags {v : Word} {s : State} : FlagsKept (writeFlags s) (pmcrWriteFlags v s) where
  notReady := id
  notReset h := Bool.or_eq_true_iff.mpr (.inl h)
  overlap := id
  badCmd := id

/-- Whatever a register write does, it sets the flags of any write. -/
theorem mmioWrite_keeps_writeFlags {off v : Word} {s t : State} (h : mmioWrite off v s = .next t) :
    FlagsKept (writeFlags s) t.flags := by
  obtain ⟨r, -, -, ⟨-, -, rfl⟩ | ⟨-, -, rfl⟩ | ⟨-, rfl⟩⟩ := mmioWrite_cases h
  · exact ctrlWriteFlags_keeps_writeFlags
  · exact pmcrWriteFlags_keeps_writeFlags
  · exact .refl _

/-- Settles O53: the flag is one of those that every write sets. -/
theorem writeWhileBusyFlagged : Obligations.WriteWhileBusyFlagged :=
  fun _ _ _ _ hwrite hbusy => (mmioWrite_keeps_writeFlags hwrite).overlap (writeFlags_overlap_of_busy hbusy)

/-! ## Reads before the platform is ready (R251) -/

theorem accessFlags_notReady_of_unready {s : State} (h : s.platformReady = false) : (accessFlags s).notReady = true := by
  simp [accessFlags, h]

theorem readValue_of_unready {s : State} (h : s.platformReady = false) (r : Reg) : readValue r s = peekDraw s 0 := by
  simp [readValue, h]

/-- A read of any register is then the one draw that a read of CTRL makes. -/
theorem afterRead_of_unready {s : State} (h : s.platformReady = false) (r : Reg) :
    afterRead r s = consumeDraws 1 { s with flags := accessFlags s } := by
  rw [afterRead, if_pos (.inr h)]

theorem peekDraw_afterRead_of_unready {s : State} (h : s.platformReady = false) (r : Reg) (k : Nat) :
    peekDraw (afterRead r s) k = peekDraw s (k + 1) := by
  rw [afterRead_of_unready h, peekDraw_consumeDraws, Nat.add_comm]
  exact peekDraw_congr rfl rfl (k + 1)

/-- Every micro-op makes one access, and every access sets the flag. -/
theorem runMicroOp_notReady_of_unready {m : MicroOp} {s t : State} (h : s.platformReady = false)
    (hrun : runMicroOp m s = .next t) : t.flags.notReady = true := by
  have hflag := accessFlags_notReady_of_unready h
  rcases runMicroOp_cases hrun with
    ⟨off, v, u, -, hwrite, rfl⟩ | ⟨off, mask, r, -, -, rfl⟩ | ⟨r, -, -, rfl⟩ | ⟨r, -, -, rfl⟩
  · rw [advance_flags]
    exact (mmioWrite_keeps_writeFlags hwrite).notReady (writeFlags_notReady_of_unready h)
  · rwa [pollStep_flags, afterRead_flags]
  · rwa [statusStep_flags, afterRead_flags]
  · rwa [dataStep_flags, afterRead_flags]

/-- A STATUS that draws a word other than the success code reports that word (41_poll.md R149). -/
theorem AtMicroOp.seqStep_status_of_unready {s : State} (h : AtMicroOp .status s) (hready : s.platformReady = false)
    (hfail : peekDraw s 0 ≠ s.cfg.statSuccess) :
    seqStep s = .next (respond .hwStatus (peekDraw s 0) 0 (afterRead .stat s)) := by
  have hreg : regAt s.cfg s.cfg.offStat = some .stat := regAt_offsetOf h.cfgWf .stat
  simp only [h.seqStep_eq, runMicroOp, mmioRead, hreg, readValue_of_unready hready, statusStep, afterRead_cfg, if_neg hfail]

/-- A READ8 whose RDDATA draws its word answers that word's low byte (41_poll.md R148). -/
theorem AtMicroOp.seqStep_rddata_of_unready {s : State} (h : AtMicroOp .rddata s) (hready : s.platformReady = false)
    (hlast : s.seq.mpc + 1 = s.seq.mprog.length) (hop : s.seq.op = .read8) :
    ∃ u, seqStep s = .next (respond .ok 0 (peekDraw s 0).low8 u) := by
  have hreg : regAt s.cfg s.cfg.offData = some .data := regAt_offsetOf h.cfgWf .data
  have hstep : seqStep s = .next (dataStep (peekDraw s 0) (afterRead .data s)) := by
    simp only [h.seqStep_eq, runMicroOp, mmioRead, hreg, readValue_of_unready hready]
  rw [hstep, dataStep, advance_at_last (by exact hlast), partDone_read8 (by exact hop)]
  exact ⟨_, rfl⟩

/-- Settles O52: one access a micro-op, each flagged, and a read hands S the draw in the place of the register's word. -/
theorem accessBeforePlatformReadyFlagged : Obligations.AccessBeforePlatformReadyFlagged := by
  refine ⟨fun s t m hat hready hstep => ?_, fun s r hready => ?_, fun s hready => ⟨fun hat hfail => ?_,
    fun hat hlast hop => ?_⟩⟩
  · rw [hat.seqStep_eq] at hstep
    exact runMicroOp_notReady_of_unready hready hstep
  · exact ⟨readValue_of_unready hready r, peekDraw_afterRead_of_unready hready r⟩
  · exact ⟨_, hat.seqStep_status_of_unready hready hfail, respond_responded _ _ _ _⟩
  · obtain ⟨u, hstep⟩ := hat.seqStep_rddata_of_unready hready hlast hop
    exact ⟨_, hstep, respond_responded _ _ _ _⟩

end Sys2Proof.Machine
end

section
/-! # 70_reset_and_hazards.md R255: the registers that keep their words -/

namespace Sys2Proof.Machine

/-! ## What a register access of S writes -/

/-- A register write stores in its own register, whether or not it starts an operation. -/
theorem mmioWrite_regGet_other {off v : Word} {s t : State} {r r' : Reg} (h : mmioWrite off v s = .next t)
    (hreg : regAt s.cfg off = some r) (hne : r' ≠ r) : regGet t.ctl.regs r' = regGet s.ctl.regs r' := by
  obtain ⟨q, hq, -, hcases⟩ := mmioWrite_cases h
  obtain rfl := Option.some.inj (hq.symm.trans hreg)
  have hother := regGet_regSet_other s.ctl.regs v hne
  rcases hcases with ⟨rfl, -, rfl⟩ | ⟨rfl, -, rfl⟩ | ⟨-, rfl⟩
  · exact hother
  · exact hother
  · exact hother

/-- The registers that no micro-program writes (R255, 40_controller.md R127). -/
def unwrittenRegs : List Reg := [.inte, .dlen, .lcr, .stat]

/-- Every write of a micro-program goes to one of the other registers. -/
theorem prog_wr_register {c : RsbConfig} {p : Part} {off v : Word} (h : .wr off v ∈ prog c p) :
    ∃ r ∉ unwrittenRegs, off = offsetOf c r := by
  cases p <;>
    simp only [prog, startAndWait, List.cons_append, List.nil_append, List.mem_cons, List.not_mem_nil, MicroOp.wr.injEq,
      reduceCtorEq, or_false] at h
  case reset =>
    obtain ⟨rfl, -⟩ := h
    exact ⟨.ctrl, by decide, rfl⟩
  case setSpeed =>
    obtain ⟨rfl, -⟩ := h
    exact ⟨.ccr, by decide, rfl⟩
  case modeSwitch =>
    obtain ⟨rfl, -⟩ := h
    exact ⟨.pmcr, by decide, rfl⟩
  case assignRta =>
    rcases h with ⟨rfl, -⟩ | ⟨rfl, -⟩ | ⟨rfl, -⟩
    exacts [⟨.saddr, by decide, rfl⟩, ⟨.cmd, by decide, rfl⟩, ⟨.ctrl, by decide, rfl⟩]
  case read8 =>
    rcases h with ⟨rfl, -⟩ | ⟨rfl, -⟩ | ⟨rfl, -⟩ | ⟨rfl, -⟩
    exacts [⟨.cmd, by decide, rfl⟩, ⟨.saddr, by decide, rfl⟩, ⟨.daddr, by decide, rfl⟩, ⟨.ctrl, by decide, rfl⟩]
  case write8 =>
    rcases h with ⟨rfl, -⟩ | ⟨rfl, -⟩ | ⟨rfl, -⟩ | ⟨rfl, -⟩ | ⟨rfl, -⟩
    exacts [⟨.cmd, by decide, rfl⟩, ⟨.saddr, by decide, rfl⟩, ⟨.daddr, by decide, rfl⟩, ⟨.data, by decide, rfl⟩,
      ⟨.ctrl, by decide, rfl⟩]

/-- A micro-op of a part leaves the words of the registers that no micro-program writes. -/
theorem runMicroOp_regGet_unwritten {m : MicroOp} {s t : State} {p : Part} {r : Reg} (hwf : s.cfg.wf = true)
    (hmem : m ∈ prog s.cfg p) (hrun : runMicroOp m s = .next t) (hr : r ∈ unwrittenRegs) :
    regGet t.ctl.regs r = regGet s.ctl.regs r := by
  rcases runMicroOp_cases hrun with
    ⟨off, v, u, rfl, hwrite, rfl⟩ | ⟨off, mask, q, -, -, rfl⟩ | ⟨q, -, -, rfl⟩ | ⟨q, -, -, rfl⟩
  · obtain ⟨q, hq, rfl⟩ := prog_wr_register hmem
    rw [advance_ctl]
    exact mmioWrite_regGet_other hwrite (regAt_offsetOf hwf q) (fun heq => hq (heq ▸ hr))
  · rw [pollStep_ctl, afterRead_ctl]
  · rw [statusStep_ctl, afterRead_ctl]
  · rw [dataStep_ctl, afterRead_ctl]

theorem SysInv.seqStep_regGet_unwritten {s t : State} (h : SysInv s) (hstep : seqStep s = .next t) {r : Reg}
    (hr : r ∈ unwrittenRegs) : regGet t.ctl.regs r = regGet s.ctl.regs r := by
  rcases seqStep_cases hstep with
    ⟨-, rfl⟩ | ⟨-, -, -, rfl⟩ | ⟨-, hidle, q, i, -, hdecode, hexec⟩ | ⟨-, hphase, m, hop, hrun⟩
  · rfl
  · rfl
  · obtain ⟨op, latched, p, haccept⟩ := exec_of_decodeRequest hdecode s
    rw [haccept, acceptWhenIdle_idle hidle] at hexec
    obtain rfl := Host.Outcome.next.inj hexec
    rw [accept_ctl]
  · obtain ⟨hprog, -⟩ := h.running hphase
    exact runMicroOp_regGet_unwritten h.cfgWf (hprog ▸ List.mem_of_getElem? hop) hrun hr

/-! ## What a completion writes -/

theorem ctlCompleted_regGet (s : State) (status data : Word) {r : Reg} (hr : r ∉ [Reg.stat, .data]) :
    regGet (ctlCompleted s status data).regs r = regGet s.ctl.regs r := by
  cases r with
  | stat | data => simp at hr
  | _ => rfl

/-- A soft reset's completion apart, a step of C writes STAT and DATA at most (40_controller.md R113, R116). -/
theorem ctlStep_regGet {s t : State} (h : ctlStep s = .next t) (hbusy : s.ctl.busy ≠ .resetting) {r : Reg}
    (hr : r ∉ [Reg.stat, .data]) : regGet t.ctl.regs r = regGet s.ctl.regs r := by
  rcases ctlStep_cases h with
    ⟨-, rfl⟩ | ⟨hreset, -⟩ | ⟨p, -, rfl⟩ | ⟨c, sa, da, d, -, ⟨-, rfl⟩ | ⟨-, rfl⟩ | ⟨-, rfl⟩ | rfl⟩
  · rfl
  · exact absurd hreset hbusy
  · rfl
  · exact ctlCompleted_regGet s _ _ hr
  · exact ctlCompleted_regGet s _ _ hr
  · exact ctlCompleted_regGet s _ _ hr
  · exact ctlCompleted_regGet s _ _ hr

/-! ## The statement -/

/-- A step that is no soft reset's completion leaves the words of the unwritten registers, and C writes none but STAT. -/
theorem SysInv.step_regGet_unwritten {s t : State} (h : SysInv s) (hstep : step s = .next t)
    (hreset : ¬(s.turn = .controller ∧ s.ctl.busy = .resetting)) {r : Reg} (hr : r ∈ unwrittenRegs)
    (hstat : r = .stat → s.turn ≠ .controller) : regGet t.ctl.regs r = regGet s.ctl.regs r := by
  obtain ⟨-, u, rfl, hagent⟩ := step_cases hstep
  rw [passTurn_ctl]
  rcases hagent with ⟨-, hseq⟩ | ⟨hturn, hctl⟩ | ⟨-, rfl⟩
  · exact h.seqStep_regGet_unwritten hseq hr
  · refine ctlStep_regGet hctl (fun hbusy => hreset ⟨hturn, hbusy⟩) ?_
    have hne : r ≠ .stat := fun heq => hstat heq hturn
    have hdata : r ≠ .data := by rintro rfl; simp [unwrittenRegs] at hr
    simp [hne, hdata]
  · rw [(hostStep_hostFrame s).ctl]

/-- Settles O50: no micro-program writes the four registers, and of C's completions but the soft reset's only STAT. -/
theorem unwrittenRegistersKeepTheirWords : Obligations.UnwrittenRegistersKeepTheirWords := by
  intro s t h hstep hreset
  have hkept {r : Reg} := h.step_regGet_unwritten hstep hreset (r := r)
  exact ⟨hkept (r := .inte) (by decide) nofun, hkept (r := .dlen) (by decide) nofun,
    hkept (r := .lcr) (by decide) nofun, fun hturn => hkept (r := .stat) (by decide) (fun _ => hturn)⟩

end Sys2Proof.Machine
end

section
/-! # 70_reset_and_hazards.md R254: no fault flag without a timeout

`RunsClean` says of the micro-ops to come that C, once free, takes them without a fault flag, and every micro-program is such.
`InStep` says that C is free for them, or has the operation in flight whose poll comes next. A poll that finds the operation
still in flight is counted or ends in TIMEOUT, and only TIMEOUT leaves S to start anew with C busy. -/

namespace Sys2Proof.Machine

/-! ## Micro-programs that set no flag -/

/-- C takes these micro-ops without a fault flag, free at the first, reset and with `cmd` in CMD: right after each start comes
its poll, and CMD holds a supported command where a transaction starts (R253, R254; 40_controller.md R112). -/
inductive RunsClean (c : RsbConfig) : Word → List MicroOp → Prop where
  | done {cmd : Word} : RunsClean c cmd []
  | store {cmd v : Word} {r : Reg} {ms : List MicroOp} (hplain : r ∉ [Reg.ctrl, .stat, .pmcr]) (hcmd : r ≠ .cmd)
    (hrest : RunsClean c cmd ms) : RunsClean c cmd (.wr (offsetOf c r) v :: ms)
  | command {cmd w : Word} {ms : List MicroOp} (hrest : RunsClean c w ms) : RunsClean c cmd (.wr c.offCmd w :: ms)
  | softReset {cmd : Word} : RunsClean c cmd [.wr c.offCtrl c.ctrlSoftRst, .poll c.offCtrl c.ctrlSoftRst]
  | modeSwitch {cmd : Word} {p : Payload} : RunsClean c cmd [.wr c.offPmcr (pmcrValue c p), .poll c.offPmcr c.pmcrStart]
  | transaction {cmd : Word} {ms : List MicroOp} (hcmd : cmd ∈ [c.cmdSrta.zext, c.cmdRd8.zext, c.cmdWr8.zext])
    (hrest : RunsClean c cmd ms) :
    RunsClean c cmd (.wr c.offCtrl c.ctrlStartTrans :: .poll c.offCtrl c.ctrlStartTrans :: ms)
  | poll {cmd off mask : Word} {ms : List MicroOp} (hrest : RunsClean c cmd ms) : RunsClean c cmd (.poll off mask :: ms)
  | status {cmd : Word} {ms : List MicroOp} (hrest : RunsClean c cmd ms) : RunsClean c cmd (.status :: ms)
  | rddata {cmd : Word} {ms : List MicroOp} (hrest : RunsClean c cmd ms) : RunsClean c cmd (.rddata :: ms)

/-- Every micro-program runs clean, whatever CMD holds at its start: a transaction's own writes CMD first. -/
theorem prog_runsClean (c : RsbConfig) (cmd : Word) (p : Part) : RunsClean c cmd (prog c p) := by
  cases p with
  | reset => exact .softReset
  | setSpeed src bus => exact .store (r := .ccr) (by decide) (by decide) .done
  | modeSwitch payload => exact .modeSwitch
  | assignRta hw rt =>
    exact .store (r := .saddr) (by decide) (by decide) (.command (.transaction (by simp) (.status .done)))
  | read8 rt reg =>
    exact .command (.store (r := .saddr) (by decide) (by decide) (.store (r := .daddr) (by decide) (by decide)
      (.transaction (by simp) (.status (.rddata .done)))))
  | write8 rt reg val =>
    exact .command (.store (r := .saddr) (by decide) (by decide) (.store (r := .daddr) (by decide) (by decide)
      (.store (r := .data) (by decide) (by decide) (.transaction (by simp) (.status .done)))))

/-! ## C in step with S -/

/-- C is free for the micro-ops to come, or has the operation in flight that the first of them polls; a soft reset, which
leaves CMD a draw, is polled by its part's last micro-op. -/
inductive InStep (c : RsbConfig) (k : Ctl) : List MicroOp → Prop where
  | free {ms : List MicroOp} (hfree : k.busy = .none) (hclean : RunsClean c k.regs.cmd ms) : InStep c k ms
  | waiting {off mask : Word} {ms : List MicroOp} (hwait : waitsFor c k.busy = some (.poll off mask))
    (hclean : RunsClean c k.regs.cmd ms) (hreset : k.busy = .resetting → ms = []) : InStep c k (.poll off mask :: ms)

/-- At a write nothing is in flight. -/
theorem InStep.free_of_wr {c : RsbConfig} {k : Ctl} {off v : Word} {ms : List MicroOp} (h : InStep c k (.wr off v :: ms)) :
    k.busy = .none ∧ RunsClean c k.regs.cmd (.wr off v :: ms) := by
  cases h with
  | free hfree hclean => exact ⟨hfree, hclean⟩

/-- A ready machine with no fault flag set, C reset and in step with the micro-ops to come, S's reset line off. -/
structure HazardFree (ms : List MicroOp) (s : State) : Prop where
  ready : s.platformReady = true
  noReset : s.seqResetIn = false
  wasReset : s.ctl.wasReset = true
  clear : s.flags.clear = true
  inStep : InStep s.cfg s.ctl ms

theorem HazardFree.congr {ms : List MicroOp} {s t : State} (h : HazardFree ms s) (hcfg : t.cfg = s.cfg)
    (hready : t.platformReady = s.platformReady) (hreset : t.seqResetIn = s.seqResetIn) (hctl : t.ctl = s.ctl)
    (hflags : t.flags = s.flags) : HazardFree ms t where
  ready := hready.trans h.ready
  noReset := hreset.trans h.noReset
  wasReset := hctl ▸ h.wasReset
  clear := hflags ▸ h.clear
  inStep := by rw [hcfg, hctl]; exact h.inStep

/-- Between parts C is free. -/
theorem HazardFree.free_of_nil {s : State} (h : HazardFree [] s) : s.ctl.busy = .none := by
  cases h.inStep with
  | free hfree _ => exact hfree

/-- So S may start any part. -/
theorem HazardFree.before_part {s : State} (h : HazardFree [] s) (p : Part) : HazardFree (prog s.cfg p) s :=
  { h with inStep := .free h.free_of_nil (prog_runsClean _ _ p) }

/-! ## C keeps in step -/

theorem ctlStep_busy {s t : State} (h : ctlStep s = .next t) : t.ctl.busy = .none := by
  rcases ctlStep_cases h with
    ⟨hfree, rfl⟩ | ⟨-, rfl⟩ | ⟨p, -, rfl⟩ | ⟨c, sa, da, d, -, ⟨-, rfl⟩ | ⟨-, rfl⟩ | ⟨-, rfl⟩ | rfl⟩
  · exact hfree
  all_goals rfl

/-- A completion finds the poll that waits for it next, and changes CMD only after a part's last write. -/
theorem InStep.ctlStep_inStep {ms : List MicroOp} {s t : State} (h : InStep s.cfg s.ctl ms) (hstep : ctlStep s = .next t) :
    InStep s.cfg t.ctl ms := by
  have hcmd (hbusy : s.ctl.busy ≠ .resetting) : t.ctl.regs.cmd = s.ctl.regs.cmd :=
    ctlStep_regGet (r := .cmd) hstep hbusy (by decide)
  refine .free (ctlStep_busy hstep) ?_
  cases h with
  | free hfree hclean => rwa [hcmd (by simp [hfree])]
  | waiting _ hclean hreset =>
    by_cases hbusy : s.ctl.busy = .resetting
    · rw [hreset hbusy]
      exact .poll .done
    · rw [hcmd hbusy]
      exact .poll hclean

theorem HazardFree.ctlStep_hazardFree {ms : List MicroOp} {s t : State} (h : HazardFree ms s)
    (hstep : ctlStep s = .next t) : HazardFree ms t := by
  have hframe := ctlStep_ctlFrame hstep
  exact
    { ready := hframe.platformReady.trans h.ready
      noReset := hframe.seqResetIn.trans h.noReset
      wasReset := (ctlStep_wasReset hstep).mpr (.inl h.wasReset)
      clear := hframe.flags ▸ h.clear
      inStep := hframe.cfg ▸ h.inStep.ctlStep_inStep hstep }

/-! ## A register access of S -/

theorem HazardFree.afterRead_hazardFree {ms : List MicroOp} {s : State} (h : HazardFree ms s) (r : Reg) :
    HazardFree ms (afterRead r s) :=
  h.congr rfl rfl rfl rfl (accessFlags_of_ready h.ready)

/-- A plain write to a free C sets no flag. -/
theorem HazardFree.plainWrite_hazardFree {ms ms' : List MicroOp} {s : State} {r : Reg} {v : Word} (h : HazardFree ms s)
    (hfree : s.ctl.busy = .none) (hclean : RunsClean s.cfg (regGet (regSet s.ctl.regs r v) .cmd) ms') :
    HazardFree ms' (plainWrite r v s) where
  ready := h.ready
  noReset := h.noReset
  wasReset := h.wasReset
  clear := by
    have hflags : (plainWrite r v s).flags = s.flags := writeFlags_of_ready h.ready hfree
    rw [hflags]
    exact h.clear
  inStep := .free hfree hclean

/-- A write of a clean program is a plain one, or starts the operation that the next micro-op polls, and sets no flag. -/
theorem HazardFree.mmioWrite_hazardFree {off v : Word} {ms : List MicroOp} {s t : State} (h : HazardFree (.wr off v :: ms) s)
    (hwf : s.cfg.wf = true) (hwrite : mmioWrite off v s = .next t) : HazardFree ms t := by
  obtain ⟨hfree, hclean⟩ := h.inStep.free_of_wr
  have hflags := writeFlags_of_ready h.ready hfree
  cases hclean with
  | @store _ _ r _ hplain hcmd hrest =>
    simp only [List.mem_cons, List.not_mem_nil, or_false, not_or] at hplain
    obtain ⟨hctrl, hstat, hpmcr⟩ := hplain
    have hnone := decodeTrigger_eq_none (c := s.cfg) (v := v) (fun heq => absurd heq hctrl) (fun heq => absurd heq hpmcr)
    obtain rfl := Host.Outcome.next.inj ((mmioWrite_of_no_trigger (regAt_offsetOf hwf r) hstat hnone).symm.trans hwrite)
    exact h.plainWrite_hazardFree hfree (by rwa [regGet_regSet_other _ _ hcmd.symm])
  | command hrest =>
    obtain rfl := Host.Outcome.next.inj
      ((mmioWrite_of_no_trigger (regAt_offsetOf hwf .cmd) (by decide) rfl).symm.trans hwrite)
    exact h.plainWrite_hazardFree hfree (by rwa [regGet_regSet_same])
  | softReset =>
    obtain rfl := Host.Outcome.next.inj ((mmioWrite_softRst hwf).symm.trans hwrite)
    exact
      { ready := h.ready
        noReset := h.noReset
        wasReset := h.wasReset
        clear := by simpa [hflags] using h.clear
        inStep := .waiting rfl .done fun _ => rfl }
  | modeSwitch =>
    obtain rfl := Host.Outcome.next.inj ((mmioWrite_pmcrValue hwf _).symm.trans hwrite)
    exact
      { ready := h.ready
        noReset := h.noReset
        wasReset := h.wasReset
        clear := by simpa [hflags, h.wasReset] using h.clear
        inStep := .waiting rfl .done nofun }
  | transaction hcmd hrest =>
    obtain ⟨hno, hstart⟩ := startTrans_bits hwf
    have hexec := (mmioWrite_of_trigger hwf (decodeTrigger_startTrans hwf)).symm.trans hwrite
    obtain rfl : ctrlWrite s.cfg.ctrlStartTrans s = t := Host.Outcome.next.inj hexec
    have hbusy := ctrlWriteBusy_of_startTrans hno hstart
    rw [ctrlWrite_of_not_both (by rw [hno]; rfl), hbusy, ctrlWriteFlags_startTrans ⟨hfree, h.wasReset⟩ hcmd hwf h.ready]
    exact
      { ready := h.ready
        noReset := h.noReset
        wasReset := h.wasReset
        clear := h.clear
        inStep := .waiting rfl hrest nofun }

/-! ## A micro-op of S -/

/-- A free C takes the micro-op that lets S advance, and what is left is the micro-ops after it. -/
theorem HazardFree.passes_hazardFree {m : MicroOp} {ms : List MicroOp} {s u : State} (h : HazardFree (m :: ms) s)
    (hwf : s.cfg.wf = true) (hfree : s.ctl.busy = .none) (hclean : RunsClean s.cfg s.ctl.regs.cmd (m :: ms))
    (hpass : Passes s m u) : HazardFree ms u := by
  have hread (r : Reg) := h.afterRead_hazardFree r
  cases hpass with
  | wr hwrite => exact h.mmioWrite_hazardFree hwf hwrite
  | @poll _ _ r =>
    cases hclean with
    | poll hrest => exact { hread r with inStep := .free hfree hrest }
  | @status r =>
    cases hclean with
    | status hrest => exact { hread r with inStep := .free hfree hrest }
  | @rddata r =>
    cases hclean with
    | rddata hrest => exact { hread r with inStep := .free hfree hrest }

/-- A poll of the operation in flight is counted, or it is the budget's last (41_poll.md R146). -/
theorem runMicroOp_of_waiting {m : MicroOp} {s t : State} (hwf : s.cfg.wf = true) (hready : s.platformReady = true)
    (hwait : waitsFor s.cfg s.ctl.busy = some m) (hrun : runMicroOp m s = .next t) :
    ∃ r, t = respond .timeout 0 0 (afterRead r s) ∨
      t = { afterRead r s with seq := { s.seq with tries := s.seq.tries + 1 } } := by
  obtain ⟨r, mask, rfl, hset⟩ := readValue_of_waiting hwf hready hwait
  rw [runMicroOp, mmioRead, regAt_offsetOf hwf] at hrun
  obtain rfl := Host.Outcome.next.inj hrun
  refine ⟨r, ?_⟩
  by_cases hlast : s.seq.tries + 1 = s.cfg.pollMaxTries
  · exact .inl (pollStep_times_out (s := afterRead r s) hset hlast)
  · exact .inr (pollStep_counts (s := afterRead r s) hset hlast)

/-! ## The micro-ops S has left -/

/-- The micro-ops that S has left in its part; none in IDLE. -/
def microOpsLeft (s : State) : List MicroOp :=
  match s.seq.phase with
  | .idle => []
  | .run => s.seq.mprog.drop s.seq.mpc

theorem microOpsLeft_congr {s t : State} (hseq : t.seq = s.seq) : microOpsLeft t = microOpsLeft s := by
  simp [microOpsLeft, hseq]

theorem microOpsLeft_of_idle {s : State} (h : s.seq.phase = .idle) : microOpsLeft s = [] := by simp [microOpsLeft, h]

theorem microOpsLeft_of_run {s : State} (h : s.seq.phase = .run) : microOpsLeft s = s.seq.mprog.drop s.seq.mpc := by
  simp [microOpsLeft, h]

theorem microOpsLeft_of_currentOp {s : State} {m : MicroOp} (hrun : s.seq.phase = .run) (hop : currentOp s = some m) :
    microOpsLeft s = m :: s.seq.mprog.drop (s.seq.mpc + 1) := by
  obtain ⟨hlt, hget⟩ := List.getElem?_eq_some_iff.mp hop
  rw [microOpsLeft_of_run hrun, List.drop_eq_getElem_cons hlt, hget]

/-- The machine is free of hazards for the micro-ops S has left. -/
def Unhazarded (s : State) : Prop := HazardFree (microOpsLeft s) s

theorem Unhazarded.of_run {s : State} (hrun : s.seq.phase = .run) (h : HazardFree (s.seq.mprog.drop s.seq.mpc) s) :
    Unhazarded s := by
  rwa [Unhazarded, microOpsLeft_of_run hrun]

theorem HazardFree.respond_unhazarded {s : State} (h : HazardFree [] s) (kind : RespKind) (code : Word) (data : Byte) :
    Unhazarded (respond kind code data s) :=
  h.congr rfl rfl rfl rfl rfl

theorem HazardFree.startPart_unhazarded {s : State} (h : HazardFree [] s) (hrun : s.seq.phase = .run) (p : Part) :
    Unhazarded (startPart p s) := by
  cases hok : partOk p with
  | false => rw [startPart_invalid hok]; exact h.respond_unhazarded _ _ _
  | true =>
    rw [startPart_ok hok]
    exact .of_run hrun ((h.before_part p).congr rfl rfl rfl rfl rfl)

/-- The end of a part finds C free, and answers or starts the next part. -/
theorem HazardFree.partDone_unhazarded {s : State} (h : HazardFree [] s) (hrun : s.seq.phase = .run) :
    Unhazarded (partDone s) := by
  have hanswer (data : Byte) : Unhazarded (respond .ok 0 data s) := h.respond_unhazarded _ _ _
  have hnext (p : Part) (q : Seq) (hq : q.phase = .run) : Unhazarded (startPart p { s with seq := q }) :=
    HazardFree.startPart_unhazarded (s := { s with seq := q }) (h.congr rfl rfl rfl rfl rfl) hq p
  unfold partDone
  split
  case h_7 =>
    split
    · exact hnext _ _ hrun
    · exact hanswer 0
  case h_8 =>
    split
    · exact hnext _ _ hrun
    · exact hanswer 0
  all_goals exact hanswer _

theorem HazardFree.advance_unhazarded {s : State} (h : HazardFree (s.seq.mprog.drop (s.seq.mpc + 1)) s)
    (hrun : s.seq.phase = .run) : Unhazarded (advance s) := by
  unfold advance
  split
  next hlast =>
    rw [List.drop_eq_nil_of_le hlast.ge] at h
    exact HazardFree.partDone_unhazarded (s := { s with seq := { s.seq with mpc := s.seq.mpc + 1 } })
      (h.congr rfl rfl rfl rfl rfl) hrun
  next => exact .of_run hrun (h.congr rfl rfl rfl rfl rfl)

/-! ## Every step short of a TIMEOUT -/

/-- A poll that is counted leaves S where it was. -/
theorem Unhazarded.counted {s : State} (h : Unhazarded s) (r : Reg) (n : Nat) :
    Unhazarded { afterRead r s with seq := { s.seq with tries := n } } :=
  HazardFree.congr (h.afterRead_hazardFree r) rfl rfl rfl rfl rfl

theorem Unhazarded.runMicroOp_unhazarded {m : MicroOp} {s t : State} (h : Unhazarded s) (hwf : s.cfg.wf = true)
    (hphase : s.seq.phase = .run) (hop : currentOp s = some m) (hrun : runMicroOp m s = .next t) (hnot : ¬TimedOut t) :
    Unhazarded t := by
  have hleft : HazardFree (m :: s.seq.mprog.drop (s.seq.mpc + 1)) s := microOpsLeft_of_currentOp hphase hop ▸ h
  cases hleft.inStep with
  | waiting hwait _ _ =>
    obtain ⟨r, rfl | rfl⟩ := runMicroOp_of_waiting hwf h.ready hwait hrun
    · exact absurd ⟨rfl, rfl⟩ hnot
    · exact h.counted r _
  | free hfree hclean =>
    rcases runMicroOp_outcomes hrun with ⟨u, hpass, rfl⟩ | ⟨kind, code, r, -, rfl⟩ | ⟨r, rfl⟩
    · have hrest := hleft.passes_hazardFree hwf hfree hclean hpass
      have hseq := hpass.seq
      exact HazardFree.advance_unhazarded (by rw [hseq]; exact hrest) (by rw [hseq]; exact hphase)
    · have hidle : HazardFree [] s := { hleft with inStep := .free hfree .done }
      exact (hidle.afterRead_hazardFree r).respond_unhazarded kind code 0
    · exact h.counted r _

theorem Unhazarded.seqStep_unhazarded {s t : State} (h : Unhazarded s) (hwf : s.cfg.wf = true) (hstep : seqStep s = .next t)
    (hnot : ¬TimedOut t) : Unhazarded t := by
  rcases seqStep_cases hstep with
    ⟨hreset, -⟩ | ⟨-, -, -, rfl⟩ | ⟨-, hidle, r, i, -, hdecode, hexec⟩ | ⟨-, hphase, m, hop, hrun⟩
  · exact absurd (h.noReset.symm.trans hreset) (by decide)
  · exact h
  · obtain ⟨op, q, p, haccept⟩ := exec_of_decodeRequest hdecode s
    rw [haccept, acceptWhenIdle_idle hidle] at hexec
    obtain rfl := Host.Outcome.next.inj hexec
    have hnil : HazardFree [] s := microOpsLeft_of_idle hidle ▸ h
    rw [accept_eq_startPart]
    exact HazardFree.startPart_unhazarded (s := consumeDraws 9 { s with request := none, seq := acceptedSeq op q })
      (hnil.congr rfl rfl rfl rfl rfl) rfl p
  · exact h.runMicroOp_unhazarded hwf hphase hop hrun hnot

theorem Unhazarded.congr {s t : State} (h : Unhazarded s) (hcfg : t.cfg = s.cfg) (hseq : t.seq = s.seq)
    (hready : t.platformReady = s.platformReady) (hreset : t.seqResetIn = s.seqResetIn) (hctl : t.ctl = s.ctl)
    (hflags : t.flags = s.flags) : Unhazarded t := by
  rw [Unhazarded, microOpsLeft_congr hseq]
  exact HazardFree.congr h hcfg hready hreset hctl hflags

/-- C completes what S polls, and H reaches neither. -/
theorem Unhazarded.step_unhazarded {s t : State} (h : Unhazarded s) (hstep : step s = .next t) (hnot : ¬TimedOut t) :
    Unhazarded t := by
  obtain ⟨hwf, u, rfl, hagent⟩ := step_cases hstep
  rw [TimedOut, passTurn_seq] at hnot
  refine Unhazarded.congr (s := u) ?_ (passTurn_cfg u) (passTurn_seq u) (passTurn_platformReady u) (passTurn_seqResetIn u)
    (passTurn_ctl u) (passTurn_flags u)
  rcases hagent with ⟨-, hseq⟩ | ⟨-, hctl⟩ | ⟨-, rfl⟩
  · exact h.seqStep_unhazarded hwf hseq hnot
  · rw [Unhazarded, microOpsLeft_congr (ctlStep_ctlFrame hctl).seq]
    exact HazardFree.ctlStep_hazardFree h hctl
  · have hframe := hostStep_hostFrame s
    exact h.congr hframe.cfg hframe.seq hframe.platformReady hframe.seqResetIn hframe.ctl hframe.flags

/-! ## The statement -/

/-- The first step of a run. -/
theorem Reaches.exists_head {n : Nat} {s t : State} (h : Reaches (n + 1) s t) : ∃ u, step s = .next u ∧ Reaches n u t := by
  cases hstep : step s with
  | next u => exact ⟨u, rfl, (run_succ_of_step (M := Sys2Proof.core) hstep).symm.trans h⟩
  | fault e => simp [Reaches, Host.Core.run, Sys2Proof.core, hstep] at h
  | refused e => simp [Reaches, Host.Core.run, Sys2Proof.core, hstep] at h

/-- By induction on the steps of a run without a TIMEOUT. -/
theorem Unhazarded.reaches_unhazarded {n : Nat} {s t : State} (h : Unhazarded s) (hreach : Reaches n s t)
    (hnot : ∀ k u, k ≤ n → Reaches k s u → ¬TimedOut u) : Unhazarded t := by
  induction n generalizing s with
  | zero =>
    obtain rfl := Host.Outcome.next.inj hreach
    exact h
  | succ n ih =>
    obtain ⟨u, hstep, hrest⟩ := hreach.exists_head
    have hnext : Unhazarded u := h.step_unhazarded hstep (hnot 1 u (by omega) (.head hstep (.zero u)))
    exact ih hnext hrest fun k v hk hv => hnot (k + 1) v (by omega) (.head hstep hv)

/-- Settles O44: a quiet start has C free and no micro-op left, and every step short of a TIMEOUT keeps C in step with S. -/
theorem flagsStayClearWithoutTimeout : Obligations.FlagsStayClearWithoutTimeout := by
  intro n s t _ hquiet hready hreset hclear hreach hnot
  obtain ⟨hidle, hfree, hline⟩ := hquiet
  have hstart : Unhazarded s := by
    rw [Unhazarded, microOpsLeft_of_idle hidle]
    exact ⟨hready, hline, hreset, hclear, .free hfree .done⟩
  exact (hstart.reaches_unhazarded hreach hnot).clear

end Sys2Proof.Machine
end
